-- ==== Sys2Proof/Word.lean ====
section
/-!
DEFINITION. The machine word and its plainest arithmetic (00_scope.md rules R8, R11, R12).

A register of XLEN bits is held in 64 bits. With XLEN = 32 only bits 31:0 are the register; `Xlen.norm` keeps
those and clears the rest, `Xlen.sx` reads the XLEN-bit value as a two's-complement number of 64 bits.
-/

namespace Sys2Proof

/-- A register or an address, wide enough for both widths of the ISA (00_scope.md rule R8). -/
abbrev Word := BitVec 64

/-- One byte of memory (20_memory.md rule R100). -/
abbrev Byte := BitVec 8

/-- The number of an x, f or v register: a 5-bit field of the encoding (30_encoding.md rule R162). -/
abbrev Reg := BitVec 5

/-- A 3-bit register field of a compressed instruction, naming register 8 + field (30_encoding.md rule R181). -/
abbrev CReg := BitVec 3

/-- XLEN, the width of an integer register and of `pc`: 32 or 64 (00_scope.md rule R8). -/
inductive Xlen where
  | rv32
  | rv64
  deriving DecidableEq, Repr

namespace Xlen

/-- XLEN in bits. -/
def bits : Xlen → Nat
  | rv32 => 32
  | rv64 => 64

/-- The XLEN-bit register value of a 64-bit pattern: its low XLEN bits, zero above (arithmetic is modulo 2^XLEN,
00_scope.md rule R12). -/
def norm : Xlen → Word → Word
  | rv32, v => (v.setWidth 32).setWidth 64
  | rv64, v => v

/-- The XLEN-bit value sign-extended to 64 bits, so that a signed comparison of XLEN-bit values is one of 64-bit
values. -/
def sx : Xlen → Word → Word
  | rv32, v => (v.setWidth 32).signExtend 64
  | rv64, v => v

/-- `sext_N` of 00_scope.md rule R12: an N-bit value extended to XLEN bits by its top bit. -/
def sext {n : Nat} (x : Xlen) (v : BitVec n) : Word := x.norm (v.signExtend 64)

end Xlen

/-- Register 8 + field, the meaning of a 3-bit register field (30_encoding.md rule R181). -/
def CReg.reg (r : CReg) : Reg := 0b01#2 ++ r

end Sys2Proof
end

