-- ==== Sys2Proof/Config.lean ====
section
/-!
DEFINITION. What an implementation fixes (00_scope.md rule R10; 93_implementation_defined.md Part 1), as one record of
plain data that `State` carries and no step changes, and the free values the spec leaves open, as constants with no
body.
-/

namespace Sys2Proof

/-- The privilege modes a hart implements (00_scope.md rule R4): M; M and U; M, S and U. -/
inductive Modes where
  | m
  | mu
  | msu
  deriving DecidableEq, Repr

/-- User mode is implemented. -/
def Modes.hasU : Modes → Bool
  | .m => false
  | .mu => true
  | .msu => true

/-- Supervisor mode is implemented. -/
def Modes.hasS : Modes → Bool
  | .m => false
  | .mu => false
  | .msu => true

/-- `EXT`: which standard extensions are present; I always is (00_scope.md rules R3, R4, R10). -/
structure Ext where
  /-- M, integer multiply and divide. -/
  m : Bool
  /-- A, atomics. -/
  a : Bool
  /-- F, single-precision floating point. -/
  f : Bool
  /-- D, double-precision floating point; the spec takes D to imply F (44_fd.md rule R400). -/
  d : Bool
  /-- C, compressed instructions. -/
  c : Bool
  /-- V, the draft vector extension. -/
  v : Bool
  deriving DecidableEq, Repr

/-- What `MEMORY_MAP` classes physical addresses as (20_memory.md rule R113). -/
inductive RegionKind where
  /-- Main memory that supports loads, stores and instruction fetches as given. -/
  | memory (r w x : Bool)
  /-- Registers of a device that supports loads and stores as given; never fetches or page tables. -/
  | device (r w : Bool)
  /-- Nothing: no access is supported. -/
  | vacant
  deriving DecidableEq, Repr

/-- A stretch of physical addresses of `MEMORY_MAP` (20_memory.md rule R113). An address in no region is vacant. -/
structure Region where
  /-- The first physical address. -/
  base : Nat
  /-- How many bytes. -/
  size : Nat
  /-- The class of its addresses. -/
  kind : RegionKind
  deriving DecidableEq, Repr

/-- The parameters of the machine (93_implementation_defined.md Part 1). -/
structure Config where
  /-- `XLEN`. -/
  xlen : Xlen
  /-- `EXT`. -/
  ext : Ext
  /-- `MODES`. -/
  modes : Modes
  /-- `MISALIGNED_OK` (20_memory.md rule R108). -/
  misalignedOk : Bool
  /-- `RESET_PC` (70_reset_and_hazards.md rule R781). -/
  resetPc : Word
  /-- `HARTID`, which no instruction can read (10_state.md rule R44). -/
  hartId : Nat
  /-- `MEMORY_MAP`; of two regions that hold an address the first counts (20_memory.md rule R113). -/
  memoryMap : List Region
  /-- `MTIME_ADDR` (60_exceptions.md rule R745). -/
  mtimeAddr : Nat
  /-- `MTIMECMP_ADDR` of this hart (60_exceptions.md rule R746). -/
  mtimecmpAddr : Nat
  /-- `MSIP_ADDR` of this hart (60_exceptions.md rule R747). -/
  msipAddr : Nat
  /-- What `mtime` gains in a step for which no input is given (60_exceptions.md rule R745). -/
  mtimeTick : BitVec 64
  /-- `PMP_COUNT`, 0 to 16; it counts as 0 without user mode (20_memory.md rule R120). -/
  pmpCount : Nat
  /-- `PTE_AD_HW` (20_memory.md rule R137). -/
  pteAdHw : Bool
  /-- ASID bits implemented: at most 9 in RV32, 16 in RV64 (10_state.md rule R61). -/
  asidBits : Nat
  /-- Translations found by a walk are cached (20_memory.md rule R141); false: the cache never gains an entry. -/
  tlbCaches : Bool
  /-- Fetches may see the bytes from before a store until `fence.i` (20_memory.md rule R147); false: they see
  memory. -/
  fetchStale : Bool
  /-- `WFI_NOP` (47_privileged.md rule R623). -/
  wfiNop : Bool
  /-- `SC_FAIL_CODE`, nonzero (43_a.md rule R365). -/
  scFailCode : Word
  /-- `SC_SPURIOUS_FAIL` (43_a.md rule R365 item 7). -/
  scSpuriousFail : Bool
  /-- `mtvec` and `stvec` have the vectored mode (10_state.md rule R49). -/
  vectored : Bool
  /-- `VBYTES`, the vector register storage in bytes (10_state.md rule R63). -/
  vbytes : Nat
  /-- The vector element types that the hart supports, as `vtype` values: a subset of the eleven of 10_state.md rule
  R64. A type whose extension or width the hart lacks is not supported whatever stands here (46_v.md rule R578); F16 and
  F32 are supported where F is present whatever stands here (rule R64). -/
  vtypes : List (BitVec 5)
  /-- `CSR_ADDR.vcfgd`, if the CSR has a number (10_state.md rules R42, R66). -/
  vcfgdCsr : Option (BitVec 12)
  deriving DecidableEq, Repr

/-- The configuration `State.reset` has: the defaults of 93_implementation_defined.md Part 1, and where it gives
none, RV64IMAFDCV with all three modes, every vector type, `RESET_PC` = 0, `WFI_NOP` true, `mtime` advancing by one,
and the device addresses the spec's own vectors choose (98_test_vectors_system.md section 10.4). DESIGN CHOICE, log 2. -/
def Config.default : Config where
  xlen := .rv64
  ext := { m := true, a := true, f := true, d := true, c := true, v := true }
  modes := .msu
  misalignedOk := true
  resetPc := 0
  hartId := 0
  memoryMap := [{ base := 0, size := 2 ^ 64, kind := .memory true true true }]
  mtimeAddr := 0x0200bff8
  mtimecmpAddr := 0x02004000
  msipAddr := 0x02000000
  mtimeTick := 1
  pmpCount := 16
  pteAdHw := false
  asidBits := 0
  tlbCaches := false
  fetchStale := false
  wfiNop := true
  scFailCode := 1
  scSpuriousFail := false
  vectored := true
  vbytes := 1024
  vtypes := [0b10100#5, 0b11100#5, 0b01101#5, 0b10101#5, 0b11101#5, 0b01110#5, 0b10110#5, 0b11110#5, 0b01111#5,
             0b10111#5, 0b11111#5]
  vcfgdCsr := none

namespace Config

/-- Bit 1 of an instruction address may be set: instructions are 2-byte aligned with C, 4-byte without
(10_state.md rule R26). -/
def ialignMask (c : Config) : Word := if c.ext.c then ~~~1#64 else ~~~3#64

/-- F is present; D implies it (44_fd.md rule R400). -/
def hasF (c : Config) : Bool := c.ext.f || c.ext.d

/-- The PMP entries that exist: none without user mode (20_memory.md rule R120), at most 16. -/
def pmpEntries (c : Config) : Nat := if c.modes.hasU then min c.pmpCount 16 else 0

/-- The element a vector register holds after `vsetdcfg` made it unspecified (46_v.md rule R574 item g): arguments are
the draw (the counter `State.free`), the register and the element. Free value, log 10. -/
opaque freeVectorElem : Nat → Nat → Nat → BitVec 64

/-- The predicate bit after `vsetdcfg` (46_v.md rule R574 item g). Free value, log 10. -/
opaque freePredicateBit : Nat → Nat → Nat → Bool

/-- Whether this `sc` fails although its reservation holds, on a hart with `SC_SPURIOUS_FAIL` (43_a.md rule R365
item 7). Free value, log 10. -/
opaque freeScFails : Nat → Bool

/-- The `vtype` that a `vsetdcfg` value other than the spec's one example gives vector register r: `decode_vcfgd` is a
parameter constrained by that example only (10_state.md rule R66). Free value, log 10. -/
opaque freeVtype : Word → Nat → BitVec 5

/-- Whether such a value enables predicate register r (10_state.md rule R66). Free value, log 10. -/
opaque freePredicateOn : Word → Nat → Bool

/-- `mvl` where its formula gives nothing: no register enabled, or one of a type the spec leaves undefined
(10_state.md rules R64, R65); a function of the `vcfgd` value. Free value, log 10. -/
opaque freeMvl : Word → Nat

/-- The byte that a load reads at an address that `MEMORY_MAP` classes as a device's, of which the spec describes
nothing (20_memory.md rule R113): arguments are the draw and the address. Free value, logs 6 and 10. -/
opaque freeDeviceByte : Nat → Nat → Byte

/-- The trap value of a vector instruction that is illegal: it has no encoding (46_v.md rule R570), so the bits the trap
value would hold (60_exceptions.md rule R703) are not given. Free value, log 10. -/
opaque freeVectorTval : Nat → BitVec 32

end Config

end Sys2Proof
end

