-- ==== Sys2Proof/Syntax.lean ====
section
/-!
DEFINITION. The instructions of the machine: one constructor for each row of opcode_table.json, in the table's order.

Operands are the fields of the encoding. A register field is a `Reg` (an x or f register, as the instruction says) or
a `CReg` (registers 8 to 15). An immediate holds the bits its encoding holds, named by their positions in the value
(30_encoding.md rules R161, R182): a branch `offset` is offset[12:1], a `jal` offset[20:1], a `lui` `imm` imm[31:12];
of the compressed forms, `c.lw` holds uimm[6:2], `c.ld` uimm[7:3], `c.lwsp` uimm[7:2], `c.ldsp` uimm[8:3],
`c.addi4spn` uimm[9:2], `c.addi16sp` imm[9:4], `c.lui` imm[17:12], `c.j` offset[11:1], `c.beqz` offset[8:1]
(45_c.md rule R504).
-/

namespace Sys2Proof

/-- An instruction (00_scope.md rule R6). -/
inductive Instr where
  /-- `lui`, 40_rv32i.md rule R250; RV32/RV64, I. -/
  | lui (rd : Reg) (imm : BitVec 20)
  /-- `auipc`, 40_rv32i.md rule R251; RV32/RV64, I. -/
  | auipc (rd : Reg) (imm : BitVec 20)
  /-- `jal`, 40_rv32i.md rule R270; RV32/RV64, I. -/
  | jal (rd : Reg) (offset : BitVec 20)
  /-- `jalr`, 40_rv32i.md rule R271; RV32/RV64, I. -/
  | jalr (rd rs1 : Reg) (imm : BitVec 12)
  /-- `beq`, 40_rv32i.md rule R262; RV32/RV64, I. -/
  | beq (rs1 rs2 : Reg) (offset : BitVec 12)
  /-- `bne`, 40_rv32i.md rule R263; RV32/RV64, I. -/
  | bne (rs1 rs2 : Reg) (offset : BitVec 12)
  /-- `blt`, 40_rv32i.md rule R264; RV32/RV64, I. -/
  | blt (rs1 rs2 : Reg) (offset : BitVec 12)
  /-- `bge`, 40_rv32i.md rule R265; RV32/RV64, I. -/
  | bge (rs1 rs2 : Reg) (offset : BitVec 12)
  /-- `bltu`, 40_rv32i.md rule R266; RV32/RV64, I. -/
  | bltu (rs1 rs2 : Reg) (offset : BitVec 12)
  /-- `bgeu`, 40_rv32i.md rule R267; RV32/RV64, I. -/
  | bgeu (rs1 rs2 : Reg) (offset : BitVec 12)
  /-- `lb`, 40_rv32i.md rule R253; RV32/RV64, I. -/
  | lb (rd rs1 : Reg) (imm : BitVec 12)
  /-- `lh`, 40_rv32i.md rule R254; RV32/RV64, I. -/
  | lh (rd rs1 : Reg) (imm : BitVec 12)
  /-- `lw`, 40_rv32i.md rule R255; RV32/RV64, I. -/
  | lw (rd rs1 : Reg) (imm : BitVec 12)
  /-- `lbu`, 40_rv32i.md rule R256; RV32/RV64, I. -/
  | lbu (rd rs1 : Reg) (imm : BitVec 12)
  /-- `lhu`, 40_rv32i.md rule R257; RV32/RV64, I. -/
  | lhu (rd rs1 : Reg) (imm : BitVec 12)
  /-- `sb`, 40_rv32i.md rule R258; RV32/RV64, I. -/
  | sb (rs2 rs1 : Reg) (imm : BitVec 12)
  /-- `sh`, 40_rv32i.md rule R259; RV32/RV64, I. -/
  | sh (rs2 rs1 : Reg) (imm : BitVec 12)
  /-- `sw`, 40_rv32i.md rule R260; RV32/RV64, I. -/
  | sw (rs2 rs1 : Reg) (imm : BitVec 12)
  /-- `addi`, 40_rv32i.md rule R241; RV32/RV64, I. -/
  | addi (rd rs1 : Reg) (imm : BitVec 12)
  /-- `slti`, 40_rv32i.md rule R242; RV32/RV64, I. -/
  | slti (rd rs1 : Reg) (imm : BitVec 12)
  /-- `sltiu`, 40_rv32i.md rule R243; RV32/RV64, I. -/
  | sltiu (rd rs1 : Reg) (imm : BitVec 12)
  /-- `xori`, 40_rv32i.md rule R244; RV32/RV64, I. -/
  | xori (rd rs1 : Reg) (imm : BitVec 12)
  /-- `ori`, 40_rv32i.md rule R245; RV32/RV64, I. -/
  | ori (rd rs1 : Reg) (imm : BitVec 12)
  /-- `andi`, 40_rv32i.md rule R246; RV32/RV64, I. -/
  | andi (rd rs1 : Reg) (imm : BitVec 12)
  /-- `slli`, 40_rv32i.md rule R247; RV32/RV64, I. -/
  | slli (rd rs1 : Reg) (shamt : BitVec 6)
  /-- `srli`, 40_rv32i.md rule R248; RV32/RV64, I. -/
  | srli (rd rs1 : Reg) (shamt : BitVec 6)
  /-- `srai`, 40_rv32i.md rule R249; RV32/RV64, I. -/
  | srai (rd rs1 : Reg) (shamt : BitVec 6)
  /-- `add`, 40_rv32i.md rule R231; RV32/RV64, I. -/
  | add (rd rs1 rs2 : Reg)
  /-- `sub`, 40_rv32i.md rule R232; RV32/RV64, I. -/
  | sub (rd rs1 rs2 : Reg)
  /-- `sll`, 40_rv32i.md rule R233; RV32/RV64, I. -/
  | sll (rd rs1 rs2 : Reg)
  /-- `slt`, 40_rv32i.md rule R234; RV32/RV64, I. -/
  | slt (rd rs1 rs2 : Reg)
  /-- `sltu`, 40_rv32i.md rule R235; RV32/RV64, I. -/
  | sltu (rd rs1 rs2 : Reg)
  /-- `xor`, 40_rv32i.md rule R236; RV32/RV64, I. -/
  | xor (rd rs1 rs2 : Reg)
  /-- `srl`, 40_rv32i.md rule R237; RV32/RV64, I. -/
  | srl (rd rs1 rs2 : Reg)
  /-- `sra`, 40_rv32i.md rule R238; RV32/RV64, I. -/
  | sra (rd rs1 rs2 : Reg)
  /-- `or`, 40_rv32i.md rule R239; RV32/RV64, I. -/
  | or (rd rs1 rs2 : Reg)
  /-- `and`, 40_rv32i.md rule R240; RV32/RV64, I. -/
  | and (rd rs1 rs2 : Reg)
  /-- `fence`, 40_rv32i.md rule R276; RV32/RV64, I. -/
  | fence (pred succ : BitVec 4)
  /-- `fence.i`, 40_rv32i.md rule R277; RV32/RV64, I. -/
  | fenceI
  /-- `ecall`, 40_rv32i.md rule R278; RV32/RV64, I. -/
  | ecall
  /-- `ebreak`, 40_rv32i.md rule R279; RV32/RV64, I. -/
  | ebreak
  /-- `csrrw`, 40_rv32i.md rule R280; RV32/RV64, I. -/
  | csrrw (rd : Reg) (csr : BitVec 12) (rs1 : Reg)
  /-- `csrrs`, 40_rv32i.md rule R281; RV32/RV64, I. -/
  | csrrs (rd : Reg) (csr : BitVec 12) (rs1 : Reg)
  /-- `csrrc`, 40_rv32i.md rule R282; RV32/RV64, I. -/
  | csrrc (rd : Reg) (csr : BitVec 12) (rs1 : Reg)
  /-- `csrrwi`, 40_rv32i.md rule R283; RV32/RV64, I. -/
  | csrrwi (rd : Reg) (csr : BitVec 12) (zimm : BitVec 5)
  /-- `csrrsi`, 40_rv32i.md rule R284; RV32/RV64, I. -/
  | csrrsi (rd : Reg) (csr : BitVec 12) (zimm : BitVec 5)
  /-- `csrrci`, 40_rv32i.md rule R285; RV32/RV64, I. -/
  | csrrci (rd : Reg) (csr : BitVec 12) (zimm : BitVec 5)
  /-- `lwu`, 41_rv64i.md rule R305; RV64, I. -/
  | lwu (rd rs1 : Reg) (imm : BitVec 12)
  /-- `ld`, 41_rv64i.md rule R304; RV64, I. -/
  | ld (rd rs1 : Reg) (imm : BitVec 12)
  /-- `sd`, 41_rv64i.md rule R306; RV64, I. -/
  | sd (rs2 rs1 : Reg) (imm : BitVec 12)
  /-- `addiw`, 41_rv64i.md rule R307; RV64, I. -/
  | addiw (rd rs1 : Reg) (imm : BitVec 12)
  /-- `slliw`, 41_rv64i.md rule R308; RV64, I. -/
  | slliw (rd rs1 : Reg) (shamt : BitVec 5)
  /-- `srliw`, 41_rv64i.md rule R309; RV64, I. -/
  | srliw (rd rs1 : Reg) (shamt : BitVec 5)
  /-- `sraiw`, 41_rv64i.md rule R310; RV64, I. -/
  | sraiw (rd rs1 : Reg) (shamt : BitVec 5)
  /-- `addw`, 41_rv64i.md rule R311; RV64, I. -/
  | addw (rd rs1 rs2 : Reg)
  /-- `subw`, 41_rv64i.md rule R312; RV64, I. -/
  | subw (rd rs1 rs2 : Reg)
  /-- `sllw`, 41_rv64i.md rule R313; RV64, I. -/
  | sllw (rd rs1 rs2 : Reg)
  /-- `srlw`, 41_rv64i.md rule R314; RV64, I. -/
  | srlw (rd rs1 rs2 : Reg)
  /-- `sraw`, 41_rv64i.md rule R315; RV64, I. -/
  | sraw (rd rs1 rs2 : Reg)
  /-- `mul`, 42_m.md rule R334; RV32/RV64, M. -/
  | mul (rd rs1 rs2 : Reg)
  /-- `mulh`, 42_m.md rule R335; RV32/RV64, M. -/
  | mulh (rd rs1 rs2 : Reg)
  /-- `mulhsu`, 42_m.md rule R336; RV32/RV64, M. -/
  | mulhsu (rd rs1 rs2 : Reg)
  /-- `mulhu`, 42_m.md rule R337; RV32/RV64, M. -/
  | mulhu (rd rs1 rs2 : Reg)
  /-- `div`, 42_m.md rule R340; RV32/RV64, M. -/
  | div (rd rs1 rs2 : Reg)
  /-- `divu`, 42_m.md rule R341; RV32/RV64, M. -/
  | divu (rd rs1 rs2 : Reg)
  /-- `rem`, 42_m.md rule R342; RV32/RV64, M. -/
  | rem (rd rs1 rs2 : Reg)
  /-- `remu`, 42_m.md rule R343; RV32/RV64, M. -/
  | remu (rd rs1 rs2 : Reg)
  /-- `mulw`, 42_m.md rule R338; RV64, M. -/
  | mulw (rd rs1 rs2 : Reg)
  /-- `divw`, 42_m.md rule R344; RV64, M. -/
  | divw (rd rs1 rs2 : Reg)
  /-- `divuw`, 42_m.md rule R345; RV64, M. -/
  | divuw (rd rs1 rs2 : Reg)
  /-- `remw`, 42_m.md rule R346; RV64, M. -/
  | remw (rd rs1 rs2 : Reg)
  /-- `remuw`, 42_m.md rule R347; RV64, M. -/
  | remuw (rd rs1 rs2 : Reg)
  /-- `lr.w`, 43_a.md rule R366; RV32/RV64, A. -/
  | lrW (rd rs1 : Reg) (aq rl : Bool)
  /-- `sc.w`, 43_a.md rule R368; RV32/RV64, A. -/
  | scW (rd rs2 rs1 : Reg) (aq rl : Bool)
  /-- `amoswap.w`, 43_a.md rule R370; RV32/RV64, A. -/
  | amoswapW (rd rs2 rs1 : Reg) (aq rl : Bool)
  /-- `amoadd.w`, 43_a.md rule R371; RV32/RV64, A. -/
  | amoaddW (rd rs2 rs1 : Reg) (aq rl : Bool)
  /-- `amoxor.w`, 43_a.md rule R372; RV32/RV64, A. -/
  | amoxorW (rd rs2 rs1 : Reg) (aq rl : Bool)
  /-- `amoand.w`, 43_a.md rule R373; RV32/RV64, A. -/
  | amoandW (rd rs2 rs1 : Reg) (aq rl : Bool)
  /-- `amoor.w`, 43_a.md rule R374; RV32/RV64, A. -/
  | amoorW (rd rs2 rs1 : Reg) (aq rl : Bool)
  /-- `amomin.w`, 43_a.md rule R375; RV32/RV64, A. -/
  | amominW (rd rs2 rs1 : Reg) (aq rl : Bool)
  /-- `amomax.w`, 43_a.md rule R376; RV32/RV64, A. -/
  | amomaxW (rd rs2 rs1 : Reg) (aq rl : Bool)
  /-- `amominu.w`, 43_a.md rule R377; RV32/RV64, A. -/
  | amominuW (rd rs2 rs1 : Reg) (aq rl : Bool)
  /-- `amomaxu.w`, 43_a.md rule R378; RV32/RV64, A. -/
  | amomaxuW (rd rs2 rs1 : Reg) (aq rl : Bool)
  /-- `lr.d`, 43_a.md rule R367; RV64, A. -/
  | lrD (rd rs1 : Reg) (aq rl : Bool)
  /-- `sc.d`, 43_a.md rule R369; RV64, A. -/
  | scD (rd rs2 rs1 : Reg) (aq rl : Bool)
  /-- `amoswap.d`, 43_a.md rule R379; RV64, A. -/
  | amoswapD (rd rs2 rs1 : Reg) (aq rl : Bool)
  /-- `amoadd.d`, 43_a.md rule R380; RV64, A. -/
  | amoaddD (rd rs2 rs1 : Reg) (aq rl : Bool)
  /-- `amoxor.d`, 43_a.md rule R381; RV64, A. -/
  | amoxorD (rd rs2 rs1 : Reg) (aq rl : Bool)
  /-- `amoand.d`, 43_a.md rule R382; RV64, A. -/
  | amoandD (rd rs2 rs1 : Reg) (aq rl : Bool)
  /-- `amoor.d`, 43_a.md rule R383; RV64, A. -/
  | amoorD (rd rs2 rs1 : Reg) (aq rl : Bool)
  /-- `amomin.d`, 43_a.md rule R384; RV64, A. -/
  | amominD (rd rs2 rs1 : Reg) (aq rl : Bool)
  /-- `amomax.d`, 43_a.md rule R385; RV64, A. -/
  | amomaxD (rd rs2 rs1 : Reg) (aq rl : Bool)
  /-- `amominu.d`, 43_a.md rule R386; RV64, A. -/
  | amominuD (rd rs2 rs1 : Reg) (aq rl : Bool)
  /-- `amomaxu.d`, 43_a.md rule R387; RV64, A. -/
  | amomaxuD (rd rs2 rs1 : Reg) (aq rl : Bool)
  /-- `flw`, 44_fd.md rule R410; RV32/RV64, F. -/
  | flw (rd rs1 : Reg) (imm : BitVec 12)
  /-- `fsw`, 44_fd.md rule R412; RV32/RV64, F. -/
  | fsw (rs2 rs1 : Reg) (imm : BitVec 12)
  /-- `fld`, 44_fd.md rule R411; RV32/RV64, D. -/
  | fld (rd rs1 : Reg) (imm : BitVec 12)
  /-- `fsd`, 44_fd.md rule R413; RV32/RV64, D. -/
  | fsd (rs2 rs1 : Reg) (imm : BitVec 12)
  /-- `fmadd.s`, 44_fd.md rule R425; RV32/RV64, F. -/
  | fmaddS (rd rs1 rs2 rs3 : Reg) (rm : BitVec 3)
  /-- `fmadd.d`, 44_fd.md rule R426; RV32/RV64, D. -/
  | fmaddD (rd rs1 rs2 rs3 : Reg) (rm : BitVec 3)
  /-- `fmsub.s`, 44_fd.md rule R427; RV32/RV64, F. -/
  | fmsubS (rd rs1 rs2 rs3 : Reg) (rm : BitVec 3)
  /-- `fmsub.d`, 44_fd.md rule R428; RV32/RV64, D. -/
  | fmsubD (rd rs1 rs2 rs3 : Reg) (rm : BitVec 3)
  /-- `fnmsub.s`, 44_fd.md rule R429; RV32/RV64, F. -/
  | fnmsubS (rd rs1 rs2 rs3 : Reg) (rm : BitVec 3)
  /-- `fnmsub.d`, 44_fd.md rule R430; RV32/RV64, D. -/
  | fnmsubD (rd rs1 rs2 rs3 : Reg) (rm : BitVec 3)
  /-- `fnmadd.s`, 44_fd.md rule R431; RV32/RV64, F. -/
  | fnmaddS (rd rs1 rs2 rs3 : Reg) (rm : BitVec 3)
  /-- `fnmadd.d`, 44_fd.md rule R432; RV32/RV64, D. -/
  | fnmaddD (rd rs1 rs2 rs3 : Reg) (rm : BitVec 3)
  /-- `fadd.s`, 44_fd.md rule R414; RV32/RV64, F. -/
  | faddS (rd rs1 rs2 : Reg) (rm : BitVec 3)
  /-- `fadd.d`, 44_fd.md rule R415; RV32/RV64, D. -/
  | faddD (rd rs1 rs2 : Reg) (rm : BitVec 3)
  /-- `fsub.s`, 44_fd.md rule R416; RV32/RV64, F. -/
  | fsubS (rd rs1 rs2 : Reg) (rm : BitVec 3)
  /-- `fsub.d`, 44_fd.md rule R417; RV32/RV64, D. -/
  | fsubD (rd rs1 rs2 : Reg) (rm : BitVec 3)
  /-- `fmul.s`, 44_fd.md rule R418; RV32/RV64, F. -/
  | fmulS (rd rs1 rs2 : Reg) (rm : BitVec 3)
  /-- `fmul.d`, 44_fd.md rule R419; RV32/RV64, D. -/
  | fmulD (rd rs1 rs2 : Reg) (rm : BitVec 3)
  /-- `fdiv.s`, 44_fd.md rule R420; RV32/RV64, F. -/
  | fdivS (rd rs1 rs2 : Reg) (rm : BitVec 3)
  /-- `fdiv.d`, 44_fd.md rule R421; RV32/RV64, D. -/
  | fdivD (rd rs1 rs2 : Reg) (rm : BitVec 3)
  /-- `fsqrt.s`, 44_fd.md rule R422; RV32/RV64, F. -/
  | fsqrtS (rd rs1 : Reg) (rm : BitVec 3)
  /-- `fsqrt.d`, 44_fd.md rule R423; RV32/RV64, D. -/
  | fsqrtD (rd rs1 : Reg) (rm : BitVec 3)
  /-- `fsgnj.s`, 44_fd.md rule R433; RV32/RV64, F. -/
  | fsgnjS (rd rs1 rs2 : Reg)
  /-- `fsgnj.d`, 44_fd.md rule R434; RV32/RV64, D. -/
  | fsgnjD (rd rs1 rs2 : Reg)
  /-- `fsgnjn.s`, 44_fd.md rule R435; RV32/RV64, F. -/
  | fsgnjnS (rd rs1 rs2 : Reg)
  /-- `fsgnjn.d`, 44_fd.md rule R436; RV32/RV64, D. -/
  | fsgnjnD (rd rs1 rs2 : Reg)
  /-- `fsgnjx.s`, 44_fd.md rule R437; RV32/RV64, F. -/
  | fsgnjxS (rd rs1 rs2 : Reg)
  /-- `fsgnjx.d`, 44_fd.md rule R438; RV32/RV64, D. -/
  | fsgnjxD (rd rs1 rs2 : Reg)
  /-- `fmin.s`, 44_fd.md rule R440; RV32/RV64, F. -/
  | fminS (rd rs1 rs2 : Reg)
  /-- `fmin.d`, 44_fd.md rule R441; RV32/RV64, D. -/
  | fminD (rd rs1 rs2 : Reg)
  /-- `fmax.s`, 44_fd.md rule R442; RV32/RV64, F. -/
  | fmaxS (rd rs1 rs2 : Reg)
  /-- `fmax.d`, 44_fd.md rule R443; RV32/RV64, D. -/
  | fmaxD (rd rs1 rs2 : Reg)
  /-- `feq.s`, 44_fd.md rule R445; RV32/RV64, F. -/
  | feqS (rd rs1 rs2 : Reg)
  /-- `feq.d`, 44_fd.md rule R446; RV32/RV64, D. -/
  | feqD (rd rs1 rs2 : Reg)
  /-- `flt.s`, 44_fd.md rule R447; RV32/RV64, F. -/
  | fltS (rd rs1 rs2 : Reg)
  /-- `flt.d`, 44_fd.md rule R448; RV32/RV64, D. -/
  | fltD (rd rs1 rs2 : Reg)
  /-- `fle.s`, 44_fd.md rule R449; RV32/RV64, F. -/
  | fleS (rd rs1 rs2 : Reg)
  /-- `fle.d`, 44_fd.md rule R450; RV32/RV64, D. -/
  | fleD (rd rs1 rs2 : Reg)
  /-- `fclass.s`, 44_fd_convert.md rule R455; RV32/RV64, F. -/
  | fclassS (rd rs1 : Reg)
  /-- `fclass.d`, 44_fd_convert.md rule R456; RV32/RV64, D. -/
  | fclassD (rd rs1 : Reg)
  /-- `fcvt.w.s`, 44_fd_convert.md rule R460; RV32/RV64, F. -/
  | fcvtWS (rd rs1 : Reg) (rm : BitVec 3)
  /-- `fcvt.w.d`, 44_fd_convert.md rule R464; RV32/RV64, D. -/
  | fcvtWD (rd rs1 : Reg) (rm : BitVec 3)
  /-- `fcvt.wu.s`, 44_fd_convert.md rule R461; RV32/RV64, F. -/
  | fcvtWuS (rd rs1 : Reg) (rm : BitVec 3)
  /-- `fcvt.wu.d`, 44_fd_convert.md rule R465; RV32/RV64, D. -/
  | fcvtWuD (rd rs1 : Reg) (rm : BitVec 3)
  /-- `fcvt.s.w`, 44_fd_convert.md rule R462; RV32/RV64, F. -/
  | fcvtSW (rd rs1 : Reg) (rm : BitVec 3)
  /-- `fcvt.d.w`, 44_fd_convert.md rule R466; RV32/RV64, D. -/
  | fcvtDW (rd rs1 : Reg) (rm : BitVec 3)
  /-- `fcvt.s.wu`, 44_fd_convert.md rule R463; RV32/RV64, F. -/
  | fcvtSWu (rd rs1 : Reg) (rm : BitVec 3)
  /-- `fcvt.d.wu`, 44_fd_convert.md rule R467; RV32/RV64, D. -/
  | fcvtDWu (rd rs1 : Reg) (rm : BitVec 3)
  /-- `fcvt.s.d`, 44_fd_convert.md rule R468; RV32/RV64, D. -/
  | fcvtSD (rd rs1 : Reg) (rm : BitVec 3)
  /-- `fcvt.d.s`, 44_fd_convert.md rule R469; RV32/RV64, D. -/
  | fcvtDS (rd rs1 : Reg) (rm : BitVec 3)
  /-- `fmv.x.w`, 44_fd_convert.md rule R470; RV32/RV64, F. -/
  | fmvXW (rd rs1 : Reg)
  /-- `fmv.w.x`, 44_fd_convert.md rule R471; RV32/RV64, F. -/
  | fmvWX (rd rs1 : Reg)
  /-- `fcvt.l.s`, 44_fd_convert.md rule R473; RV64, F. -/
  | fcvtLS (rd rs1 : Reg) (rm : BitVec 3)
  /-- `fcvt.l.d`, 44_fd_convert.md rule R477; RV64, D. -/
  | fcvtLD (rd rs1 : Reg) (rm : BitVec 3)
  /-- `fcvt.lu.s`, 44_fd_convert.md rule R474; RV64, F. -/
  | fcvtLuS (rd rs1 : Reg) (rm : BitVec 3)
  /-- `fcvt.lu.d`, 44_fd_convert.md rule R478; RV64, D. -/
  | fcvtLuD (rd rs1 : Reg) (rm : BitVec 3)
  /-- `fcvt.s.l`, 44_fd_convert.md rule R475; RV64, F. -/
  | fcvtSL (rd rs1 : Reg) (rm : BitVec 3)
  /-- `fcvt.d.l`, 44_fd_convert.md rule R479; RV64, D. -/
  | fcvtDL (rd rs1 : Reg) (rm : BitVec 3)
  /-- `fcvt.s.lu`, 44_fd_convert.md rule R476; RV64, F. -/
  | fcvtSLu (rd rs1 : Reg) (rm : BitVec 3)
  /-- `fcvt.d.lu`, 44_fd_convert.md rule R480; RV64, D. -/
  | fcvtDLu (rd rs1 : Reg) (rm : BitVec 3)
  /-- `fmv.x.d`, 44_fd_convert.md rule R481; RV64, D. -/
  | fmvXD (rd rs1 : Reg)
  /-- `fmv.d.x`, 44_fd_convert.md rule R482; RV64, D. -/
  | fmvDX (rd rs1 : Reg)
  /-- `mret`, 47_privileged.md rule R621; RV32/RV64, priv. -/
  | mret
  /-- `sret`, 47_privileged.md rule R622; RV32/RV64, priv. -/
  | sret
  /-- `wfi`, 47_privileged.md rule R623; RV32/RV64, priv. -/
  | wfi
  /-- `sfence.vma`, 47_privileged.md rule R624; RV32/RV64, priv. -/
  | sfenceVma (rs1 rs2 : Reg)
  /-- `c.addi4spn`, 45_c.md rule R510; RV32/RV64, C. -/
  | cAddi4spn (rd : CReg) (uimm : BitVec 8)
  /-- `c.fld`, 45_c.md rule R511; RV32/RV64, C+D. -/
  | cFld (rd rs1 : CReg) (uimm : BitVec 5)
  /-- `c.lw`, 45_c.md rule R512; RV32/RV64, C. -/
  | cLw (rd rs1 : CReg) (uimm : BitVec 5)
  /-- `c.flw`, 45_c.md rule R513; RV32, C+F. -/
  | cFlw (rd rs1 : CReg) (uimm : BitVec 5)
  /-- `c.ld`, 45_c.md rule R517; RV64, C. -/
  | cLd (rd rs1 : CReg) (uimm : BitVec 5)
  /-- `c.fsd`, 45_c.md rule R514; RV32/RV64, C+D. -/
  | cFsd (rs2 rs1 : CReg) (uimm : BitVec 5)
  /-- `c.sw`, 45_c.md rule R515; RV32/RV64, C. -/
  | cSw (rs2 rs1 : CReg) (uimm : BitVec 5)
  /-- `c.fsw`, 45_c.md rule R516; RV32, C+F. -/
  | cFsw (rs2 rs1 : CReg) (uimm : BitVec 5)
  /-- `c.sd`, 45_c.md rule R518; RV64, C. -/
  | cSd (rs2 rs1 : CReg) (uimm : BitVec 5)
  /-- `c.nop`, 45_c.md rule R520; RV32/RV64, C. -/
  | cNop (imm : BitVec 6)
  /-- `c.addi`, 45_c.md rule R521; RV32/RV64, C. -/
  | cAddi (rd : Reg) (imm : BitVec 6)
  /-- `c.jal`, 45_c.md rule R522; RV32, C. -/
  | cJal (offset : BitVec 11)
  /-- `c.addiw`, 45_c.md rule R523; RV64, C. -/
  | cAddiw (rd : Reg) (imm : BitVec 6)
  /-- `c.li`, 45_c.md rule R524; RV32/RV64, C. -/
  | cLi (rd : Reg) (imm : BitVec 6)
  /-- `c.addi16sp`, 45_c.md rule R525; RV32/RV64, C. -/
  | cAddi16sp (imm : BitVec 6)
  /-- `c.lui`, 45_c.md rule R526; RV32/RV64, C. -/
  | cLui (rd : Reg) (imm : BitVec 6)
  /-- `c.srli`, 45_c.md rule R527; RV32/RV64, C. -/
  | cSrli (rd : CReg) (uimm : BitVec 6)
  /-- `c.srai`, 45_c.md rule R528; RV32/RV64, C. -/
  | cSrai (rd : CReg) (uimm : BitVec 6)
  /-- `c.andi`, 45_c.md rule R529; RV32/RV64, C. -/
  | cAndi (rd : CReg) (imm : BitVec 6)
  /-- `c.sub`, 45_c.md rule R530; RV32/RV64, C. -/
  | cSub (rd rs2 : CReg)
  /-- `c.xor`, 45_c.md rule R531; RV32/RV64, C. -/
  | cXor (rd rs2 : CReg)
  /-- `c.or`, 45_c.md rule R532; RV32/RV64, C. -/
  | cOr (rd rs2 : CReg)
  /-- `c.and`, 45_c.md rule R533; RV32/RV64, C. -/
  | cAnd (rd rs2 : CReg)
  /-- `c.subw`, 45_c.md rule R534; RV64, C. -/
  | cSubw (rd rs2 : CReg)
  /-- `c.addw`, 45_c.md rule R535; RV64, C. -/
  | cAddw (rd rs2 : CReg)
  /-- `c.j`, 45_c.md rule R536; RV32/RV64, C. -/
  | cJ (offset : BitVec 11)
  /-- `c.beqz`, 45_c.md rule R537; RV32/RV64, C. -/
  | cBeqz (rs1 : CReg) (offset : BitVec 8)
  /-- `c.bnez`, 45_c.md rule R538; RV32/RV64, C. -/
  | cBnez (rs1 : CReg) (offset : BitVec 8)
  /-- `c.slli`, 45_c.md rule R540; RV32/RV64, C. -/
  | cSlli (rd : Reg) (uimm : BitVec 6)
  /-- `c.fldsp`, 45_c.md rule R541; RV32/RV64, C+D. -/
  | cFldsp (rd : Reg) (uimm : BitVec 6)
  /-- `c.lwsp`, 45_c.md rule R542; RV32/RV64, C. -/
  | cLwsp (rd : Reg) (uimm : BitVec 6)
  /-- `c.flwsp`, 45_c.md rule R543; RV32, C+F. -/
  | cFlwsp (rd : Reg) (uimm : BitVec 6)
  /-- `c.ldsp`, 45_c.md rule R544; RV64, C. -/
  | cLdsp (rd : Reg) (uimm : BitVec 6)
  /-- `c.ebreak`, 45_c.md rule R547; RV32/RV64, C. -/
  | cEbreak
  /-- `c.jr`, 45_c.md rule R545; RV32/RV64, C. -/
  | cJr (rs1 : Reg)
  /-- `c.jalr`, 45_c.md rule R548; RV32/RV64, C. -/
  | cJalr (rs1 : Reg)
  /-- `c.mv`, 45_c.md rule R546; RV32/RV64, C. -/
  | cMv (rd rs2 : Reg)
  /-- `c.add`, 45_c.md rule R549; RV32/RV64, C. -/
  | cAdd (rd rs2 : Reg)
  /-- `c.fsdsp`, 45_c.md rule R550; RV32/RV64, C+D. -/
  | cFsdsp (rs2 : Reg) (uimm : BitVec 6)
  /-- `c.swsp`, 45_c.md rule R551; RV32/RV64, C. -/
  | cSwsp (rs2 : Reg) (uimm : BitVec 6)
  /-- `c.fswsp`, 45_c.md rule R552; RV32, C+F. -/
  | cFswsp (rs2 : Reg) (uimm : BitVec 6)
  /-- `c.sdsp`, 45_c.md rule R553; RV64, C. -/
  | cSdsp (rs2 : Reg) (uimm : BitVec 6)
  deriving DecidableEq, Repr

end Sys2Proof
end

