-- ==== Sys2Proof/WellFormed.lean ====
section
/-!
DEFINITION. Which instruction terms are instructions: the conditions the encoding tables put on an instruction's
operands, and the XLEN in which its row exists (opcode_table.json, `constraint` and `xlen`).
-/

namespace Sys2Proof

/-- The shift amount is legal: its bit 5 is 0 in RV32 (30_encoding.md rule R166, 45_c.md rule R505). -/
def shamtOk (x : Xlen) (shamt : BitVec 6) : Bool :=
  match x with
  | .rv32 => !shamt.getLsbD 5
  | .rv64 => true

/-- The instruction exists with this XLEN (the `xlen` column of opcode_table.json; 41_rv64i.md rule R303, 45_c.md
rule R503). -/
def Instr.inXlen (x : Xlen) : Instr → Bool
  | .lwu _ _ _
  | .ld _ _ _
  | .sd _ _ _
  | .addiw _ _ _
  | .slliw _ _ _
  | .srliw _ _ _
  | .sraiw _ _ _
  | .addw _ _ _
  | .subw _ _ _
  | .sllw _ _ _
  | .srlw _ _ _
  | .sraw _ _ _
  | .mulw _ _ _
  | .divw _ _ _
  | .divuw _ _ _
  | .remw _ _ _
  | .remuw _ _ _
  | .lrD _ _ _ _
  | .scD _ _ _ _ _
  | .amoswapD _ _ _ _ _
  | .amoaddD _ _ _ _ _
  | .amoxorD _ _ _ _ _
  | .amoandD _ _ _ _ _
  | .amoorD _ _ _ _ _
  | .amominD _ _ _ _ _
  | .amomaxD _ _ _ _ _
  | .amominuD _ _ _ _ _
  | .amomaxuD _ _ _ _ _
  | .fcvtLS _ _ _
  | .fcvtLD _ _ _
  | .fcvtLuS _ _ _
  | .fcvtLuD _ _ _
  | .fcvtSL _ _ _
  | .fcvtDL _ _ _
  | .fcvtSLu _ _ _
  | .fcvtDLu _ _ _
  | .fmvXD _ _
  | .fmvDX _ _
  | .cLd _ _ _
  | .cSd _ _ _
  | .cAddiw _ _
  | .cSubw _ _
  | .cAddw _ _
  | .cLdsp _ _
  | .cSdsp _ _ => x == .rv64
  | .cFlw _ _ _
  | .cFsw _ _ _
  | .cJal _
  | .cFlwsp _ _
  | .cFswsp _ _ => x == .rv32
  | .lui _ _
  | .auipc _ _
  | .jal _ _
  | .jalr _ _ _
  | .beq _ _ _
  | .bne _ _ _
  | .blt _ _ _
  | .bge _ _ _
  | .bltu _ _ _
  | .bgeu _ _ _
  | .lb _ _ _
  | .lh _ _ _
  | .lw _ _ _
  | .lbu _ _ _
  | .lhu _ _ _
  | .sb _ _ _
  | .sh _ _ _
  | .sw _ _ _
  | .addi _ _ _
  | .slti _ _ _
  | .sltiu _ _ _
  | .xori _ _ _
  | .ori _ _ _
  | .andi _ _ _
  | .slli _ _ _
  | .srli _ _ _
  | .srai _ _ _
  | .add _ _ _
  | .sub _ _ _
  | .sll _ _ _
  | .slt _ _ _
  | .sltu _ _ _
  | .xor _ _ _
  | .srl _ _ _
  | .sra _ _ _
  | .or _ _ _
  | .and _ _ _
  | .fence _ _
  | .fenceI
  | .ecall
  | .ebreak
  | .csrrw _ _ _
  | .csrrs _ _ _
  | .csrrc _ _ _
  | .csrrwi _ _ _
  | .csrrsi _ _ _
  | .csrrci _ _ _
  | .mul _ _ _
  | .mulh _ _ _
  | .mulhsu _ _ _
  | .mulhu _ _ _
  | .div _ _ _
  | .divu _ _ _
  | .rem _ _ _
  | .remu _ _ _
  | .lrW _ _ _ _
  | .scW _ _ _ _ _
  | .amoswapW _ _ _ _ _
  | .amoaddW _ _ _ _ _
  | .amoxorW _ _ _ _ _
  | .amoandW _ _ _ _ _
  | .amoorW _ _ _ _ _
  | .amominW _ _ _ _ _
  | .amomaxW _ _ _ _ _
  | .amominuW _ _ _ _ _
  | .amomaxuW _ _ _ _ _
  | .flw _ _ _
  | .fsw _ _ _
  | .fld _ _ _
  | .fsd _ _ _
  | .fmaddS _ _ _ _ _
  | .fmaddD _ _ _ _ _
  | .fmsubS _ _ _ _ _
  | .fmsubD _ _ _ _ _
  | .fnmsubS _ _ _ _ _
  | .fnmsubD _ _ _ _ _
  | .fnmaddS _ _ _ _ _
  | .fnmaddD _ _ _ _ _
  | .faddS _ _ _ _
  | .faddD _ _ _ _
  | .fsubS _ _ _ _
  | .fsubD _ _ _ _
  | .fmulS _ _ _ _
  | .fmulD _ _ _ _
  | .fdivS _ _ _ _
  | .fdivD _ _ _ _
  | .fsqrtS _ _ _
  | .fsqrtD _ _ _
  | .fsgnjS _ _ _
  | .fsgnjD _ _ _
  | .fsgnjnS _ _ _
  | .fsgnjnD _ _ _
  | .fsgnjxS _ _ _
  | .fsgnjxD _ _ _
  | .fminS _ _ _
  | .fminD _ _ _
  | .fmaxS _ _ _
  | .fmaxD _ _ _
  | .feqS _ _ _
  | .feqD _ _ _
  | .fltS _ _ _
  | .fltD _ _ _
  | .fleS _ _ _
  | .fleD _ _ _
  | .fclassS _ _
  | .fclassD _ _
  | .fcvtWS _ _ _
  | .fcvtWD _ _ _
  | .fcvtWuS _ _ _
  | .fcvtWuD _ _ _
  | .fcvtSW _ _ _
  | .fcvtDW _ _ _
  | .fcvtSWu _ _ _
  | .fcvtDWu _ _ _
  | .fcvtSD _ _ _
  | .fcvtDS _ _ _
  | .fmvXW _ _
  | .fmvWX _ _
  | .mret
  | .sret
  | .wfi
  | .sfenceVma _ _
  | .cAddi4spn _ _
  | .cFld _ _ _
  | .cLw _ _ _
  | .cFsd _ _ _
  | .cSw _ _ _
  | .cNop _
  | .cAddi _ _
  | .cLi _ _
  | .cAddi16sp _
  | .cLui _ _
  | .cSrli _ _
  | .cSrai _ _
  | .cAndi _ _
  | .cSub _ _
  | .cXor _ _
  | .cOr _ _
  | .cAnd _ _
  | .cJ _
  | .cBeqz _ _
  | .cBnez _ _
  | .cSlli _ _
  | .cFldsp _ _
  | .cLwsp _ _
  | .cEbreak
  | .cJr _
  | .cJalr _
  | .cMv _ _
  | .cAdd _ _
  | .cFsdsp _ _
  | .cSwsp _ _ => true

/-- The operands are ones the encoding admits (45_c.md rule R502 and the instruction's own rule; 30_encoding.md rule
R166 for the shifts). -/
def Instr.operandsOk (x : Xlen) : Instr → Bool
  | .slli _ _ shamt => shamtOk x shamt
  | .srli _ _ shamt => shamtOk x shamt
  | .srai _ _ shamt => shamtOk x shamt
  | .cAddi4spn _ uimm => decide (uimm ≠ 0)
  | .cAddi rd _ => decide (rd ≠ 0)
  | .cAddiw rd _ => decide (rd ≠ 0)
  | .cAddi16sp imm => decide (imm ≠ 0)
  | .cLui rd imm => decide (rd ≠ 2 ∧ imm ≠ 0)
  | .cSrli _ uimm => shamtOk x uimm
  | .cSrai _ uimm => shamtOk x uimm
  | .cSlli _ uimm => shamtOk x uimm
  | .cLwsp rd _ => decide (rd ≠ 0)
  | .cLdsp rd _ => decide (rd ≠ 0)
  | .cJr rs1 => decide (rs1 ≠ 0)
  | .cJalr rs1 => decide (rs1 ≠ 0)
  | .cMv _ rs2 => decide (rs2 ≠ 0)
  | .cAdd rd rs2 => decide (rd ≠ 0 ∧ rs2 ≠ 0)
  | .lui _ _
  | .auipc _ _
  | .jal _ _
  | .jalr _ _ _
  | .beq _ _ _
  | .bne _ _ _
  | .blt _ _ _
  | .bge _ _ _
  | .bltu _ _ _
  | .bgeu _ _ _
  | .lb _ _ _
  | .lh _ _ _
  | .lw _ _ _
  | .lbu _ _ _
  | .lhu _ _ _
  | .sb _ _ _
  | .sh _ _ _
  | .sw _ _ _
  | .addi _ _ _
  | .slti _ _ _
  | .sltiu _ _ _
  | .xori _ _ _
  | .ori _ _ _
  | .andi _ _ _
  | .add _ _ _
  | .sub _ _ _
  | .sll _ _ _
  | .slt _ _ _
  | .sltu _ _ _
  | .xor _ _ _
  | .srl _ _ _
  | .sra _ _ _
  | .or _ _ _
  | .and _ _ _
  | .fence _ _
  | .fenceI
  | .ecall
  | .ebreak
  | .csrrw _ _ _
  | .csrrs _ _ _
  | .csrrc _ _ _
  | .csrrwi _ _ _
  | .csrrsi _ _ _
  | .csrrci _ _ _
  | .lwu _ _ _
  | .ld _ _ _
  | .sd _ _ _
  | .addiw _ _ _
  | .slliw _ _ _
  | .srliw _ _ _
  | .sraiw _ _ _
  | .addw _ _ _
  | .subw _ _ _
  | .sllw _ _ _
  | .srlw _ _ _
  | .sraw _ _ _
  | .mul _ _ _
  | .mulh _ _ _
  | .mulhsu _ _ _
  | .mulhu _ _ _
  | .div _ _ _
  | .divu _ _ _
  | .rem _ _ _
  | .remu _ _ _
  | .mulw _ _ _
  | .divw _ _ _
  | .divuw _ _ _
  | .remw _ _ _
  | .remuw _ _ _
  | .lrW _ _ _ _
  | .scW _ _ _ _ _
  | .amoswapW _ _ _ _ _
  | .amoaddW _ _ _ _ _
  | .amoxorW _ _ _ _ _
  | .amoandW _ _ _ _ _
  | .amoorW _ _ _ _ _
  | .amominW _ _ _ _ _
  | .amomaxW _ _ _ _ _
  | .amominuW _ _ _ _ _
  | .amomaxuW _ _ _ _ _
  | .lrD _ _ _ _
  | .scD _ _ _ _ _
  | .amoswapD _ _ _ _ _
  | .amoaddD _ _ _ _ _
  | .amoxorD _ _ _ _ _
  | .amoandD _ _ _ _ _
  | .amoorD _ _ _ _ _
  | .amominD _ _ _ _ _
  | .amomaxD _ _ _ _ _
  | .amominuD _ _ _ _ _
  | .amomaxuD _ _ _ _ _
  | .flw _ _ _
  | .fsw _ _ _
  | .fld _ _ _
  | .fsd _ _ _
  | .fmaddS _ _ _ _ _
  | .fmaddD _ _ _ _ _
  | .fmsubS _ _ _ _ _
  | .fmsubD _ _ _ _ _
  | .fnmsubS _ _ _ _ _
  | .fnmsubD _ _ _ _ _
  | .fnmaddS _ _ _ _ _
  | .fnmaddD _ _ _ _ _
  | .faddS _ _ _ _
  | .faddD _ _ _ _
  | .fsubS _ _ _ _
  | .fsubD _ _ _ _
  | .fmulS _ _ _ _
  | .fmulD _ _ _ _
  | .fdivS _ _ _ _
  | .fdivD _ _ _ _
  | .fsqrtS _ _ _
  | .fsqrtD _ _ _
  | .fsgnjS _ _ _
  | .fsgnjD _ _ _
  | .fsgnjnS _ _ _
  | .fsgnjnD _ _ _
  | .fsgnjxS _ _ _
  | .fsgnjxD _ _ _
  | .fminS _ _ _
  | .fminD _ _ _
  | .fmaxS _ _ _
  | .fmaxD _ _ _
  | .feqS _ _ _
  | .feqD _ _ _
  | .fltS _ _ _
  | .fltD _ _ _
  | .fleS _ _ _
  | .fleD _ _ _
  | .fclassS _ _
  | .fclassD _ _
  | .fcvtWS _ _ _
  | .fcvtWD _ _ _
  | .fcvtWuS _ _ _
  | .fcvtWuD _ _ _
  | .fcvtSW _ _ _
  | .fcvtDW _ _ _
  | .fcvtSWu _ _ _
  | .fcvtDWu _ _ _
  | .fcvtSD _ _ _
  | .fcvtDS _ _ _
  | .fmvXW _ _
  | .fmvWX _ _
  | .fcvtLS _ _ _
  | .fcvtLD _ _ _
  | .fcvtLuS _ _ _
  | .fcvtLuD _ _ _
  | .fcvtSL _ _ _
  | .fcvtDL _ _ _
  | .fcvtSLu _ _ _
  | .fcvtDLu _ _ _
  | .fmvXD _ _
  | .fmvDX _ _
  | .mret
  | .sret
  | .wfi
  | .sfenceVma _ _
  | .cFld _ _ _
  | .cLw _ _ _
  | .cFlw _ _ _
  | .cLd _ _ _
  | .cFsd _ _ _
  | .cSw _ _ _
  | .cFsw _ _ _
  | .cSd _ _ _
  | .cNop _
  | .cJal _
  | .cLi _ _
  | .cAndi _ _
  | .cSub _ _
  | .cXor _ _
  | .cOr _ _
  | .cAnd _ _
  | .cSubw _ _
  | .cAddw _ _
  | .cJ _
  | .cBeqz _ _
  | .cBnez _ _
  | .cFldsp _ _
  | .cFlwsp _ _
  | .cEbreak
  | .cFsdsp _ _
  | .cSwsp _ _
  | .cFswsp _ _
  | .cSdsp _ _ => true

/-- The instruction is well formed for this XLEN. -/
def Instr.wf (x : Xlen) (i : Instr) : Bool := i.inXlen x && i.operandsOk x

end Sys2Proof
end

