-- ==== Sys2Proof/Decode.lean ====
section
/-!
DEFINITION. The decoder, total on any bits, and the encoder (30_encoding.md; opcode_table.json).

`decode` reads the instruction that a fetched parcel or word is, for the hart's XLEN and extensions, and rejects
everything else by name (30_encoding.md rule R172: such a word raises illegal instruction). Every bit that an encoding
prints as a digit is compared (92_eei_decisions.md D24). `encode` writes an instruction's bits from the same layouts.
-/

namespace Sys2Proof

/-- The bits of one instruction as fetched: a 16-bit parcel, or a 32-bit word (30_encoding.md rule R163). -/
inductive Bits where
  | short (p : BitVec 16)
  | long (w : BitVec 32)
  deriving DecidableEq, Repr

/-- Why the decoder rejects bits. Each is an illegal instruction to the hart (30_encoding.md rule R172). -/
inductive Reject where
  /-- The opcode is not one of 30_encoding.md rule R171, or the 16-bit code point has no row. -/
  | opcode
  /-- A function code, or a field the encoding prints as digits, has no row under this opcode. -/
  | function
  /-- The row has this operand value excluded (45_c.md rule R502, 30_encoding.md rule R166). -/
  | operand
  /-- The row exists in RV64 only (30_encoding.md rule R175). -/
  | rv64Only
  /-- The row exists in RV32 only (45_c.md rule R503). -/
  | rv32Only
  /-- The extension that holds the row is absent (00_scope.md rule R4). -/
  | extension
  /-- There are fewer bytes than the instruction has. -/
  | truncated
  deriving DecidableEq, Repr

/-- The bits as the number an illegal-instruction trap reports: zero-extended (60_exceptions.md rule R703). -/
def Bits.toWord : Bits → Word
  | .short p => p.setWidth 64
  | .long w => w.setWidth 64

/-- The length of the instruction in bytes (30_encoding.md rule R160). -/
def Bits.len : Bits → Word
  | .short _ => 2
  | .long _ => 4

/-! ## Fields of a 32-bit word (30_encoding.md rules R161, R162, R164) -/

def fOpcode (w : BitVec 32) : BitVec 7 := w.extractLsb' 0 7
def fRd (w : BitVec 32) : Reg := w.extractLsb' 7 5
def fFunct3 (w : BitVec 32) : BitVec 3 := w.extractLsb' 12 3
def fRs1 (w : BitVec 32) : Reg := w.extractLsb' 15 5
def fRs2 (w : BitVec 32) : Reg := w.extractLsb' 20 5
def fRs3 (w : BitVec 32) : Reg := w.extractLsb' 27 5
def fFunct7 (w : BitVec 32) : BitVec 7 := w.extractLsb' 25 7
def fFunct6 (w : BitVec 32) : BitVec 6 := w.extractLsb' 26 6
def fFunct5 (w : BitVec 32) : BitVec 5 := w.extractLsb' 27 5
def fFmt (w : BitVec 32) : BitVec 2 := w.extractLsb' 25 2
def fAq (w : BitVec 32) : Bool := w.getLsbD 26
def fRl (w : BitVec 32) : Bool := w.getLsbD 25
def fImmI (w : BitVec 32) : BitVec 12 := w.extractLsb' 20 12
def fImmS (w : BitVec 32) : BitVec 12 := w.extractLsb' 25 7 ++ w.extractLsb' 7 5
/-- offset[12:1] of the B format. -/
def fOffB (w : BitVec 32) : BitVec 12 :=
  w.extractLsb' 31 1 ++ w.extractLsb' 7 1 ++ w.extractLsb' 25 6 ++ w.extractLsb' 8 4
/-- imm[31:12] of the U format. -/
def fImmU (w : BitVec 32) : BitVec 20 := w.extractLsb' 12 20
/-- offset[20:1] of the J format. -/
def fOffJ (w : BitVec 32) : BitVec 20 :=
  w.extractLsb' 31 1 ++ w.extractLsb' 12 8 ++ w.extractLsb' 20 1 ++ w.extractLsb' 21 10
def fShamt (w : BitVec 32) : BitVec 6 := w.extractLsb' 20 6
def fPred (w : BitVec 32) : BitVec 4 := w.extractLsb' 24 4
def fSucc (w : BitVec 32) : BitVec 4 := w.extractLsb' 20 4

/-! ## The 32-bit formats, written (30_encoding.md rules R161, R166 to R169) -/

def encR (f7 : BitVec 7) (rs2 rs1 : Reg) (f3 : BitVec 3) (rd : Reg) (op : BitVec 7) : BitVec 32 :=
  f7 ++ rs2 ++ rs1 ++ f3 ++ rd ++ op
def encI (imm : BitVec 12) (rs1 : Reg) (f3 : BitVec 3) (rd : Reg) (op : BitVec 7) : BitVec 32 :=
  imm ++ rs1 ++ f3 ++ rd ++ op
def encS (imm : BitVec 12) (rs2 rs1 : Reg) (f3 : BitVec 3) (op : BitVec 7) : BitVec 32 :=
  imm.extractLsb' 5 7 ++ rs2 ++ rs1 ++ f3 ++ imm.extractLsb' 0 5 ++ op
/-- `off` is offset[12:1]: its bit k is bit k + 1 of the offset. -/
def encB (off : BitVec 12) (rs2 rs1 : Reg) (f3 : BitVec 3) (op : BitVec 7) : BitVec 32 :=
  off.extractLsb' 11 1 ++ off.extractLsb' 4 6 ++ rs2 ++ rs1 ++ f3 ++ off.extractLsb' 0 4 ++ off.extractLsb' 10 1 ++ op
def encU (imm : BitVec 20) (rd : Reg) (op : BitVec 7) : BitVec 32 := imm ++ rd ++ op
/-- `off` is offset[20:1]: its bit k is bit k + 1 of the offset. -/
def encJ (off : BitVec 20) (rd : Reg) (op : BitVec 7) : BitVec 32 :=
  off.extractLsb' 19 1 ++ off.extractLsb' 0 10 ++ off.extractLsb' 10 1 ++ off.extractLsb' 11 8 ++ rd ++ op
def encSh (f6 : BitVec 6) (shamt : BitVec 6) (rs1 : Reg) (f3 : BitVec 3) (rd : Reg) (op : BitVec 7) : BitVec 32 :=
  f6 ++ shamt ++ rs1 ++ f3 ++ rd ++ op
def encA (f5 : BitVec 5) (aq rl : Bool) (rs2 rs1 : Reg) (f3 : BitVec 3) (rd : Reg) : BitVec 32 :=
  f5 ++ BitVec.ofBool aq ++ BitVec.ofBool rl ++ rs2 ++ rs1 ++ f3 ++ rd ++ 0b0101111#7
def encR4 (rs3 : Reg) (fmt : BitVec 2) (rs2 rs1 : Reg) (rm : BitVec 3) (rd : Reg) (op : BitVec 7) : BitVec 32 :=
  rs3 ++ fmt ++ rs2 ++ rs1 ++ rm ++ rd ++ op

/-! ## Fields of a 16-bit parcel (45_c.md rule R504) -/

def cRd (p : BitVec 16) : Reg := p.extractLsb' 7 5
def cRs2 (p : BitVec 16) : Reg := p.extractLsb' 2 5
/-- rd' or rs2' in bits 4:2. -/
def cLow (p : BitVec 16) : CReg := p.extractLsb' 2 3
/-- rs1' or rd' in bits 9:7. -/
def cHigh (p : BitVec 16) : CReg := p.extractLsb' 7 3
/-- imm[5:0] of the CI and CB forms: 12←5, 6:2←4:0. -/
def cImm6 (p : BitVec 16) : BitVec 6 := p.extractLsb' 12 1 ++ p.extractLsb' 2 5
/-- uimm[9:2] of `c.addi4spn`: 12:11←5:4, 10:7←9:6, 6←2, 5←3. -/
def cImm4spn (p : BitVec 16) : BitVec 8 :=
  p.extractLsb' 7 4 ++ p.extractLsb' 11 2 ++ p.extractLsb' 5 1 ++ p.extractLsb' 6 1
/-- imm[9:4] of `c.addi16sp`: 12←9, 6←4, 5←6, 4:3←8:7, 2←5. -/
def cImm16sp (p : BitVec 16) : BitVec 6 :=
  p.extractLsb' 12 1 ++ p.extractLsb' 3 2 ++ p.extractLsb' 5 1 ++ p.extractLsb' 2 1 ++ p.extractLsb' 6 1
/-- uimm[6:2] of the word CL and CS forms: 12:10←5:3, 6←2, 5←6. -/
def cImmW (p : BitVec 16) : BitVec 5 := p.extractLsb' 5 1 ++ p.extractLsb' 10 3 ++ p.extractLsb' 6 1
/-- uimm[7:3] of the doubleword CL and CS forms: 12:10←5:3, 6:5←7:6. -/
def cImmD (p : BitVec 16) : BitVec 5 := p.extractLsb' 5 2 ++ p.extractLsb' 10 3
/-- uimm[7:2] of `c.lwsp`: 12←5, 6:4←4:2, 3:2←7:6. -/
def cImmLwsp (p : BitVec 16) : BitVec 6 := p.extractLsb' 2 2 ++ p.extractLsb' 12 1 ++ p.extractLsb' 4 3
/-- uimm[8:3] of `c.ldsp`: 12←5, 6:5←4:3, 4:2←8:6. -/
def cImmLdsp (p : BitVec 16) : BitVec 6 := p.extractLsb' 2 3 ++ p.extractLsb' 12 1 ++ p.extractLsb' 5 2
/-- uimm[7:2] of `c.swsp`: 12:9←5:2, 8:7←7:6. -/
def cImmSwsp (p : BitVec 16) : BitVec 6 := p.extractLsb' 7 2 ++ p.extractLsb' 9 4
/-- uimm[8:3] of `c.sdsp`: 12:10←5:3, 9:7←8:6. -/
def cImmSdsp (p : BitVec 16) : BitVec 6 := p.extractLsb' 7 3 ++ p.extractLsb' 10 3
/-- offset[11:1] of the CJ forms: 12←11, 11←4, 10:9←9:8, 8←10, 7←6, 6←7, 5:3←3:1, 2←5. -/
def cOffJ (p : BitVec 16) : BitVec 11 :=
  p.extractLsb' 12 1 ++ p.extractLsb' 8 1 ++ p.extractLsb' 9 2 ++ p.extractLsb' 6 1 ++ p.extractLsb' 7 1 ++
    p.extractLsb' 2 1 ++ p.extractLsb' 11 1 ++ p.extractLsb' 3 3
/-- offset[8:1] of the CB branches: 12←8, 11:10←4:3, 6:5←7:6, 4:3←2:1, 2←5. -/
def cOffB (p : BitVec 16) : BitVec 8 :=
  p.extractLsb' 12 1 ++ p.extractLsb' 5 2 ++ p.extractLsb' 2 1 ++ p.extractLsb' 10 2 ++ p.extractLsb' 3 2

/-! ## The 16-bit formats, written (30_encoding.md rule R180, 45_c.md rule R504) -/

def encCI (f3 : BitVec 3) (imm : BitVec 6) (rd : Reg) (op : BitVec 2) : BitVec 16 :=
  f3 ++ imm.extractLsb' 5 1 ++ rd ++ imm.extractLsb' 0 5 ++ op
def encCR (f4 : BitVec 4) (rd rs2 : Reg) : BitVec 16 := f4 ++ rd ++ rs2 ++ 0b10#2
def encC4spn (uimm : BitVec 8) (rd : CReg) : BitVec 16 :=
  0b000#3 ++ uimm.extractLsb' 2 2 ++ uimm.extractLsb' 4 4 ++ uimm.extractLsb' 0 1 ++ uimm.extractLsb' 1 1 ++ rd ++ 0b00#2
def encC16sp (imm : BitVec 6) : BitVec 16 :=
  0b011#3 ++ imm.extractLsb' 5 1 ++ 0b00010#5 ++ imm.extractLsb' 0 1 ++ imm.extractLsb' 2 1 ++ imm.extractLsb' 3 2 ++
    imm.extractLsb' 1 1 ++ 0b01#2
def encCW (f3 : BitVec 3) (uimm : BitVec 5) (rs1 r : CReg) : BitVec 16 :=
  f3 ++ uimm.extractLsb' 1 3 ++ rs1 ++ uimm.extractLsb' 0 1 ++ uimm.extractLsb' 4 1 ++ r ++ 0b00#2
def encCD (f3 : BitVec 3) (uimm : BitVec 5) (rs1 r : CReg) : BitVec 16 :=
  f3 ++ uimm.extractLsb' 0 3 ++ rs1 ++ uimm.extractLsb' 3 2 ++ r ++ 0b00#2
def encCLwsp (f3 : BitVec 3) (uimm : BitVec 6) (rd : Reg) : BitVec 16 :=
  f3 ++ uimm.extractLsb' 3 1 ++ rd ++ uimm.extractLsb' 0 3 ++ uimm.extractLsb' 4 2 ++ 0b10#2
def encCLdsp (f3 : BitVec 3) (uimm : BitVec 6) (rd : Reg) : BitVec 16 :=
  f3 ++ uimm.extractLsb' 2 1 ++ rd ++ uimm.extractLsb' 0 2 ++ uimm.extractLsb' 3 3 ++ 0b10#2
def encCSwsp (f3 : BitVec 3) (uimm : BitVec 6) (rs2 : Reg) : BitVec 16 :=
  f3 ++ uimm.extractLsb' 0 4 ++ uimm.extractLsb' 4 2 ++ rs2 ++ 0b10#2
def encCSdsp (f3 : BitVec 3) (uimm : BitVec 6) (rs2 : Reg) : BitVec 16 :=
  f3 ++ uimm.extractLsb' 0 3 ++ uimm.extractLsb' 3 3 ++ rs2 ++ 0b10#2
/-- `off` is offset[11:1]: its bit k is bit k + 1 of the offset. -/
def encCJ (f3 : BitVec 3) (off : BitVec 11) : BitVec 16 :=
  f3 ++ off.extractLsb' 10 1 ++ off.extractLsb' 3 1 ++ off.extractLsb' 7 2 ++ off.extractLsb' 9 1 ++
    off.extractLsb' 5 1 ++ off.extractLsb' 6 1 ++ off.extractLsb' 0 3 ++ off.extractLsb' 4 1 ++ 0b01#2
/-- `off` is offset[8:1]: its bit k is bit k + 1 of the offset. -/
def encCB (f3 : BitVec 3) (rs1 : CReg) (off : BitVec 8) : BitVec 16 :=
  f3 ++ off.extractLsb' 7 1 ++ off.extractLsb' 2 2 ++ rs1 ++ off.extractLsb' 5 2 ++ off.extractLsb' 0 2 ++
    off.extractLsb' 4 1 ++ 0b01#2
/-- The CB-like immediate forms: `f2` in bits 11:10. -/
def encCAI (f2 : BitVec 2) (imm : BitVec 6) (rd : CReg) : BitVec 16 :=
  0b100#3 ++ imm.extractLsb' 5 1 ++ f2 ++ rd ++ imm.extractLsb' 0 5 ++ 0b01#2
/-- The register-register forms of quadrant 01: `f6` in bits 15:10, `f2` in bits 6:5. -/
def encCA (f6 : BitVec 6) (f2 : BitVec 2) (rd rs2 : CReg) : BitVec 16 := f6 ++ rd ++ f2 ++ rs2 ++ 0b01#2

/-! ## Decoding a 32-bit word -/

/-- The row, if XLEN is 64. -/
def rv64 (x : Xlen) (i : Instr) : Except Reject Instr :=
  match x with
  | .rv64 => .ok i
  | .rv32 => .error .rv64Only

/-- The row, if XLEN is 32. -/
def rv32 (x : Xlen) (i : Instr) : Except Reject Instr :=
  match x with
  | .rv32 => .ok i
  | .rv64 => .error .rv32Only

/-- The row, if its operands satisfy the row's condition. -/
def onlyIf (ok : Bool) (i : Instr) : Except Reject Instr := if ok then .ok i else .error .operand

/-- Opcode `1100111`: `jalr`. -/
def decodeJalr (w : BitVec 32) : Except Reject Instr :=
  match fFunct3 w with
  | 0b000#3 => .ok (.jalr (fRd w) (fRs1 w) (fImmI w))
  | _ => .error .function

/-- Opcode `1100011`: `beq` `bne` `blt` `bge` `bltu` `bgeu`. -/
def decodeBranch (w : BitVec 32) : Except Reject Instr :=
  match fFunct3 w with
  | 0b000#3 => .ok (.beq (fRs1 w) (fRs2 w) (fOffB w))
  | 0b001#3 => .ok (.bne (fRs1 w) (fRs2 w) (fOffB w))
  | 0b100#3 => .ok (.blt (fRs1 w) (fRs2 w) (fOffB w))
  | 0b101#3 => .ok (.bge (fRs1 w) (fRs2 w) (fOffB w))
  | 0b110#3 => .ok (.bltu (fRs1 w) (fRs2 w) (fOffB w))
  | 0b111#3 => .ok (.bgeu (fRs1 w) (fRs2 w) (fOffB w))
  | _ => .error .function

/-- Opcode `0000011`: `lb` `lh` `lw` `lbu` `lhu` `lwu` `ld`. -/
def decodeLoad (x : Xlen) (w : BitVec 32) : Except Reject Instr :=
  match fFunct3 w with
  | 0b000#3 => .ok (.lb (fRd w) (fRs1 w) (fImmI w))
  | 0b001#3 => .ok (.lh (fRd w) (fRs1 w) (fImmI w))
  | 0b010#3 => .ok (.lw (fRd w) (fRs1 w) (fImmI w))
  | 0b100#3 => .ok (.lbu (fRd w) (fRs1 w) (fImmI w))
  | 0b101#3 => .ok (.lhu (fRd w) (fRs1 w) (fImmI w))
  | 0b110#3 => rv64 x (.lwu (fRd w) (fRs1 w) (fImmI w))
  | 0b011#3 => rv64 x (.ld (fRd w) (fRs1 w) (fImmI w))
  | _ => .error .function

/-- Opcode `0100011`: `sb` `sh` `sw` `sd`. -/
def decodeStore (x : Xlen) (w : BitVec 32) : Except Reject Instr :=
  match fFunct3 w with
  | 0b000#3 => .ok (.sb (fRs2 w) (fRs1 w) (fImmS w))
  | 0b001#3 => .ok (.sh (fRs2 w) (fRs1 w) (fImmS w))
  | 0b010#3 => .ok (.sw (fRs2 w) (fRs1 w) (fImmS w))
  | 0b011#3 => rv64 x (.sd (fRs2 w) (fRs1 w) (fImmS w))
  | _ => .error .function

/-- Opcode `0010011`: `addi` `slti` `sltiu` `xori` `ori` `andi` `slli` `srli` `srai`. -/
def decodeOpImm (x : Xlen) (w : BitVec 32) : Except Reject Instr :=
  match fFunct3 w with
  | 0b000#3 => .ok (.addi (fRd w) (fRs1 w) (fImmI w))
  | 0b010#3 => .ok (.slti (fRd w) (fRs1 w) (fImmI w))
  | 0b011#3 => .ok (.sltiu (fRd w) (fRs1 w) (fImmI w))
  | 0b100#3 => .ok (.xori (fRd w) (fRs1 w) (fImmI w))
  | 0b110#3 => .ok (.ori (fRd w) (fRs1 w) (fImmI w))
  | 0b111#3 => .ok (.andi (fRd w) (fRs1 w) (fImmI w))
  | 0b001#3 =>
    match fFunct6 w with
    | 0b000000#6 => onlyIf (shamtOk x (fShamt w)) (.slli (fRd w) (fRs1 w) (fShamt w))
    | _ => .error .function
  | 0b101#3 =>
    match fFunct6 w with
    | 0b000000#6 => onlyIf (shamtOk x (fShamt w)) (.srli (fRd w) (fRs1 w) (fShamt w))
    | 0b010000#6 => onlyIf (shamtOk x (fShamt w)) (.srai (fRd w) (fRs1 w) (fShamt w))
    | _ => .error .function
  | _ => .error .function

/-- Opcode `0110011`: `add` `sub` `sll` `slt` `sltu` `xor` `srl` `sra` `or` `and` `mul` `mulh` `mulhsu` `mulhu` `div`
`divu` `rem` `remu`. -/
def decodeOp (w : BitVec 32) : Except Reject Instr :=
  match fFunct7 w, fFunct3 w with
  | 0b0000000#7, 0b000#3 => .ok (.add (fRd w) (fRs1 w) (fRs2 w))
  | 0b0100000#7, 0b000#3 => .ok (.sub (fRd w) (fRs1 w) (fRs2 w))
  | 0b0000000#7, 0b001#3 => .ok (.sll (fRd w) (fRs1 w) (fRs2 w))
  | 0b0000000#7, 0b010#3 => .ok (.slt (fRd w) (fRs1 w) (fRs2 w))
  | 0b0000000#7, 0b011#3 => .ok (.sltu (fRd w) (fRs1 w) (fRs2 w))
  | 0b0000000#7, 0b100#3 => .ok (.xor (fRd w) (fRs1 w) (fRs2 w))
  | 0b0000000#7, 0b101#3 => .ok (.srl (fRd w) (fRs1 w) (fRs2 w))
  | 0b0100000#7, 0b101#3 => .ok (.sra (fRd w) (fRs1 w) (fRs2 w))
  | 0b0000000#7, 0b110#3 => .ok (.or (fRd w) (fRs1 w) (fRs2 w))
  | 0b0000000#7, 0b111#3 => .ok (.and (fRd w) (fRs1 w) (fRs2 w))
  | 0b0000001#7, 0b000#3 => .ok (.mul (fRd w) (fRs1 w) (fRs2 w))
  | 0b0000001#7, 0b001#3 => .ok (.mulh (fRd w) (fRs1 w) (fRs2 w))
  | 0b0000001#7, 0b010#3 => .ok (.mulhsu (fRd w) (fRs1 w) (fRs2 w))
  | 0b0000001#7, 0b011#3 => .ok (.mulhu (fRd w) (fRs1 w) (fRs2 w))
  | 0b0000001#7, 0b100#3 => .ok (.div (fRd w) (fRs1 w) (fRs2 w))
  | 0b0000001#7, 0b101#3 => .ok (.divu (fRd w) (fRs1 w) (fRs2 w))
  | 0b0000001#7, 0b110#3 => .ok (.rem (fRd w) (fRs1 w) (fRs2 w))
  | 0b0000001#7, 0b111#3 => .ok (.remu (fRd w) (fRs1 w) (fRs2 w))
  | _, _ => .error .function

/-- Opcode `0001111`: `fence` `fence.i`. -/
def decodeMiscMem (w : BitVec 32) : Except Reject Instr :=
  match fFunct3 w with
  | 0b000#3 =>
    if w.extractLsb' 28 4 = 0 ∧ fRs1 w = 0 ∧ fRd w = 0 then .ok (.fence (fPred w) (fSucc w)) else .error .function
  | 0b001#3 => if fImmI w = 0 ∧ fRs1 w = 0 ∧ fRd w = 0 then .ok .fenceI else .error .function
  | _ => .error .function

/-- Opcode `1110011`: `ecall` `ebreak` `csrrw` `csrrs` `csrrc` `csrrwi` `csrrsi` `csrrci` `mret` `sret` `wfi`
`sfence.vma`. -/
def decodeSystem (w : BitVec 32) : Except Reject Instr :=
  match fFunct3 w with
  | 0b001#3 => .ok (.csrrw (fRd w) (fImmI w) (fRs1 w))
  | 0b010#3 => .ok (.csrrs (fRd w) (fImmI w) (fRs1 w))
  | 0b011#3 => .ok (.csrrc (fRd w) (fImmI w) (fRs1 w))
  | 0b101#3 => .ok (.csrrwi (fRd w) (fImmI w) (fRs1 w))
  | 0b110#3 => .ok (.csrrsi (fRd w) (fImmI w) (fRs1 w))
  | 0b111#3 => .ok (.csrrci (fRd w) (fImmI w) (fRs1 w))
  | 0b000#3 =>
    if fRd w ≠ 0 then .error .function
    else if fFunct7 w = 0b0001001#7 then .ok (.sfenceVma (fRs1 w) (fRs2 w))
    else if fRs1 w ≠ 0 then .error .function
    else
      match fImmI w with
      | 0b000000000000#12 => .ok .ecall
      | 0b000000000001#12 => .ok .ebreak
      | 0b001100000010#12 => .ok .mret
      | 0b000100000010#12 => .ok .sret
      | 0b000100000101#12 => .ok .wfi
      | _ => .error .function
  | _ => .error .function

/-- Opcode `0011011`: `addiw` `slliw` `srliw` `sraiw`. -/
def decodeOpImm32 (x : Xlen) (w : BitVec 32) : Except Reject Instr :=
  match fFunct3 w with
  | 0b000#3 => rv64 x (.addiw (fRd w) (fRs1 w) (fImmI w))
  | 0b001#3 =>
    match fFunct7 w with
    | 0b0000000#7 => rv64 x (.slliw (fRd w) (fRs1 w) (fRs2 w))
    | _ => .error .function
  | 0b101#3 =>
    match fFunct7 w with
    | 0b0000000#7 => rv64 x (.srliw (fRd w) (fRs1 w) (fRs2 w))
    | 0b0100000#7 => rv64 x (.sraiw (fRd w) (fRs1 w) (fRs2 w))
    | _ => .error .function
  | _ => .error .function

/-- Opcode `0111011`: `addw` `subw` `sllw` `srlw` `sraw` `mulw` `divw` `divuw` `remw` `remuw`. -/
def decodeOp32 (x : Xlen) (w : BitVec 32) : Except Reject Instr :=
  match fFunct7 w, fFunct3 w with
  | 0b0000000#7, 0b000#3 => rv64 x (.addw (fRd w) (fRs1 w) (fRs2 w))
  | 0b0100000#7, 0b000#3 => rv64 x (.subw (fRd w) (fRs1 w) (fRs2 w))
  | 0b0000000#7, 0b001#3 => rv64 x (.sllw (fRd w) (fRs1 w) (fRs2 w))
  | 0b0000000#7, 0b101#3 => rv64 x (.srlw (fRd w) (fRs1 w) (fRs2 w))
  | 0b0100000#7, 0b101#3 => rv64 x (.sraw (fRd w) (fRs1 w) (fRs2 w))
  | 0b0000001#7, 0b000#3 => rv64 x (.mulw (fRd w) (fRs1 w) (fRs2 w))
  | 0b0000001#7, 0b100#3 => rv64 x (.divw (fRd w) (fRs1 w) (fRs2 w))
  | 0b0000001#7, 0b101#3 => rv64 x (.divuw (fRd w) (fRs1 w) (fRs2 w))
  | 0b0000001#7, 0b110#3 => rv64 x (.remw (fRd w) (fRs1 w) (fRs2 w))
  | 0b0000001#7, 0b111#3 => rv64 x (.remuw (fRd w) (fRs1 w) (fRs2 w))
  | _, _ => .error .function

/-- Opcode `0101111`: `lr.w` `sc.w` `amoswap.w` `amoadd.w` `amoxor.w` `amoand.w` `amoor.w` `amomin.w` `amomax.w`
`amominu.w` `amomaxu.w` `lr.d` `sc.d` `amoswap.d` `amoadd.d` `amoxor.d` `amoand.d` `amoor.d` `amomin.d` `amomax.d`
`amominu.d` `amomaxu.d`. -/
def decodeAmo (x : Xlen) (w : BitVec 32) : Except Reject Instr :=
  match fFunct5 w, fFunct3 w with
  | 0b00010#5, 0b010#3 => if fRs2 w = 0 then .ok (.lrW (fRd w) (fRs1 w) (fAq w) (fRl w)) else .error .function
  | 0b00011#5, 0b010#3 => .ok (.scW (fRd w) (fRs2 w) (fRs1 w) (fAq w) (fRl w))
  | 0b00001#5, 0b010#3 => .ok (.amoswapW (fRd w) (fRs2 w) (fRs1 w) (fAq w) (fRl w))
  | 0b00000#5, 0b010#3 => .ok (.amoaddW (fRd w) (fRs2 w) (fRs1 w) (fAq w) (fRl w))
  | 0b00100#5, 0b010#3 => .ok (.amoxorW (fRd w) (fRs2 w) (fRs1 w) (fAq w) (fRl w))
  | 0b01100#5, 0b010#3 => .ok (.amoandW (fRd w) (fRs2 w) (fRs1 w) (fAq w) (fRl w))
  | 0b01000#5, 0b010#3 => .ok (.amoorW (fRd w) (fRs2 w) (fRs1 w) (fAq w) (fRl w))
  | 0b10000#5, 0b010#3 => .ok (.amominW (fRd w) (fRs2 w) (fRs1 w) (fAq w) (fRl w))
  | 0b10100#5, 0b010#3 => .ok (.amomaxW (fRd w) (fRs2 w) (fRs1 w) (fAq w) (fRl w))
  | 0b11000#5, 0b010#3 => .ok (.amominuW (fRd w) (fRs2 w) (fRs1 w) (fAq w) (fRl w))
  | 0b11100#5, 0b010#3 => .ok (.amomaxuW (fRd w) (fRs2 w) (fRs1 w) (fAq w) (fRl w))
  | 0b00010#5, 0b011#3 => if fRs2 w = 0 then rv64 x (.lrD (fRd w) (fRs1 w) (fAq w) (fRl w)) else .error .function
  | 0b00011#5, 0b011#3 => rv64 x (.scD (fRd w) (fRs2 w) (fRs1 w) (fAq w) (fRl w))
  | 0b00001#5, 0b011#3 => rv64 x (.amoswapD (fRd w) (fRs2 w) (fRs1 w) (fAq w) (fRl w))
  | 0b00000#5, 0b011#3 => rv64 x (.amoaddD (fRd w) (fRs2 w) (fRs1 w) (fAq w) (fRl w))
  | 0b00100#5, 0b011#3 => rv64 x (.amoxorD (fRd w) (fRs2 w) (fRs1 w) (fAq w) (fRl w))
  | 0b01100#5, 0b011#3 => rv64 x (.amoandD (fRd w) (fRs2 w) (fRs1 w) (fAq w) (fRl w))
  | 0b01000#5, 0b011#3 => rv64 x (.amoorD (fRd w) (fRs2 w) (fRs1 w) (fAq w) (fRl w))
  | 0b10000#5, 0b011#3 => rv64 x (.amominD (fRd w) (fRs2 w) (fRs1 w) (fAq w) (fRl w))
  | 0b10100#5, 0b011#3 => rv64 x (.amomaxD (fRd w) (fRs2 w) (fRs1 w) (fAq w) (fRl w))
  | 0b11000#5, 0b011#3 => rv64 x (.amominuD (fRd w) (fRs2 w) (fRs1 w) (fAq w) (fRl w))
  | 0b11100#5, 0b011#3 => rv64 x (.amomaxuD (fRd w) (fRs2 w) (fRs1 w) (fAq w) (fRl w))
  | _, _ => .error .function

/-- Opcode `0000111`: `flw` `fld`. -/
def decodeLoadFp (w : BitVec 32) : Except Reject Instr :=
  match fFunct3 w with
  | 0b010#3 => .ok (.flw (fRd w) (fRs1 w) (fImmI w))
  | 0b011#3 => .ok (.fld (fRd w) (fRs1 w) (fImmI w))
  | _ => .error .function

/-- Opcode `0100111`: `fsw` `fsd`. -/
def decodeStoreFp (w : BitVec 32) : Except Reject Instr :=
  match fFunct3 w with
  | 0b010#3 => .ok (.fsw (fRs2 w) (fRs1 w) (fImmS w))
  | 0b011#3 => .ok (.fsd (fRs2 w) (fRs1 w) (fImmS w))
  | _ => .error .function

/-- Opcode `1000011`: `fmadd.s` `fmadd.d`. -/
def decodeFmadd (w : BitVec 32) : Except Reject Instr :=
  match fFmt w with
  | 0b00#2 => .ok (.fmaddS (fRd w) (fRs1 w) (fRs2 w) (fRs3 w) (fFunct3 w))
  | 0b01#2 => .ok (.fmaddD (fRd w) (fRs1 w) (fRs2 w) (fRs3 w) (fFunct3 w))
  | _ => .error .function

/-- Opcode `1000111`: `fmsub.s` `fmsub.d`. -/
def decodeFmsub (w : BitVec 32) : Except Reject Instr :=
  match fFmt w with
  | 0b00#2 => .ok (.fmsubS (fRd w) (fRs1 w) (fRs2 w) (fRs3 w) (fFunct3 w))
  | 0b01#2 => .ok (.fmsubD (fRd w) (fRs1 w) (fRs2 w) (fRs3 w) (fFunct3 w))
  | _ => .error .function

/-- Opcode `1001011`: `fnmsub.s` `fnmsub.d`. -/
def decodeFnmsub (w : BitVec 32) : Except Reject Instr :=
  match fFmt w with
  | 0b00#2 => .ok (.fnmsubS (fRd w) (fRs1 w) (fRs2 w) (fRs3 w) (fFunct3 w))
  | 0b01#2 => .ok (.fnmsubD (fRd w) (fRs1 w) (fRs2 w) (fRs3 w) (fFunct3 w))
  | _ => .error .function

/-- Opcode `1001111`: `fnmadd.s` `fnmadd.d`. -/
def decodeFnmadd (w : BitVec 32) : Except Reject Instr :=
  match fFmt w with
  | 0b00#2 => .ok (.fnmaddS (fRd w) (fRs1 w) (fRs2 w) (fRs3 w) (fFunct3 w))
  | 0b01#2 => .ok (.fnmaddD (fRd w) (fRs1 w) (fRs2 w) (fRs3 w) (fFunct3 w))
  | _ => .error .function

/-- Opcode `1010011`: `fadd.s` `fadd.d` `fsub.s` `fsub.d` `fmul.s` `fmul.d` `fdiv.s` `fdiv.d` `fsqrt.s` `fsqrt.d`
`fsgnj.s` `fsgnj.d` `fsgnjn.s` `fsgnjn.d` `fsgnjx.s` `fsgnjx.d` `fmin.s` `fmin.d` `fmax.s` `fmax.d` `feq.s` `feq.d`
`flt.s` `flt.d` `fle.s` `fle.d` `fclass.s` `fclass.d` `fcvt.w.s` `fcvt.w.d` `fcvt.wu.s` `fcvt.wu.d` `fcvt.s.w`
`fcvt.d.w` `fcvt.s.wu` `fcvt.d.wu` `fcvt.s.d` `fcvt.d.s` `fmv.x.w` `fmv.w.x` `fcvt.l.s` `fcvt.l.d` `fcvt.lu.s`
`fcvt.lu.d` `fcvt.s.l` `fcvt.d.l` `fcvt.s.lu` `fcvt.d.lu` `fmv.x.d` `fmv.d.x`. -/
def decodeOpFp (x : Xlen) (w : BitVec 32) : Except Reject Instr :=
  match fFunct7 w with
  | 0b0000000#7 => .ok (.faddS (fRd w) (fRs1 w) (fRs2 w) (fFunct3 w))
  | 0b0000001#7 => .ok (.faddD (fRd w) (fRs1 w) (fRs2 w) (fFunct3 w))
  | 0b0000100#7 => .ok (.fsubS (fRd w) (fRs1 w) (fRs2 w) (fFunct3 w))
  | 0b0000101#7 => .ok (.fsubD (fRd w) (fRs1 w) (fRs2 w) (fFunct3 w))
  | 0b0001000#7 => .ok (.fmulS (fRd w) (fRs1 w) (fRs2 w) (fFunct3 w))
  | 0b0001001#7 => .ok (.fmulD (fRd w) (fRs1 w) (fRs2 w) (fFunct3 w))
  | 0b0001100#7 => .ok (.fdivS (fRd w) (fRs1 w) (fRs2 w) (fFunct3 w))
  | 0b0001101#7 => .ok (.fdivD (fRd w) (fRs1 w) (fRs2 w) (fFunct3 w))
  | 0b0101100#7 =>
    match fRs2 w with
    | 0b00000#5 => .ok (.fsqrtS (fRd w) (fRs1 w) (fFunct3 w))
    | _ => .error .function
  | 0b0101101#7 =>
    match fRs2 w with
    | 0b00000#5 => .ok (.fsqrtD (fRd w) (fRs1 w) (fFunct3 w))
    | _ => .error .function
  | 0b0010000#7 =>
    match fFunct3 w with
    | 0b000#3 => .ok (.fsgnjS (fRd w) (fRs1 w) (fRs2 w))
    | 0b001#3 => .ok (.fsgnjnS (fRd w) (fRs1 w) (fRs2 w))
    | 0b010#3 => .ok (.fsgnjxS (fRd w) (fRs1 w) (fRs2 w))
    | _ => .error .function
  | 0b0010001#7 =>
    match fFunct3 w with
    | 0b000#3 => .ok (.fsgnjD (fRd w) (fRs1 w) (fRs2 w))
    | 0b001#3 => .ok (.fsgnjnD (fRd w) (fRs1 w) (fRs2 w))
    | 0b010#3 => .ok (.fsgnjxD (fRd w) (fRs1 w) (fRs2 w))
    | _ => .error .function
  | 0b0010100#7 =>
    match fFunct3 w with
    | 0b000#3 => .ok (.fminS (fRd w) (fRs1 w) (fRs2 w))
    | 0b001#3 => .ok (.fmaxS (fRd w) (fRs1 w) (fRs2 w))
    | _ => .error .function
  | 0b0010101#7 =>
    match fFunct3 w with
    | 0b000#3 => .ok (.fminD (fRd w) (fRs1 w) (fRs2 w))
    | 0b001#3 => .ok (.fmaxD (fRd w) (fRs1 w) (fRs2 w))
    | _ => .error .function
  | 0b1010000#7 =>
    match fFunct3 w with
    | 0b010#3 => .ok (.feqS (fRd w) (fRs1 w) (fRs2 w))
    | 0b001#3 => .ok (.fltS (fRd w) (fRs1 w) (fRs2 w))
    | 0b000#3 => .ok (.fleS (fRd w) (fRs1 w) (fRs2 w))
    | _ => .error .function
  | 0b1010001#7 =>
    match fFunct3 w with
    | 0b010#3 => .ok (.feqD (fRd w) (fRs1 w) (fRs2 w))
    | 0b001#3 => .ok (.fltD (fRd w) (fRs1 w) (fRs2 w))
    | 0b000#3 => .ok (.fleD (fRd w) (fRs1 w) (fRs2 w))
    | _ => .error .function
  | 0b1110000#7 =>
    match fRs2 w, fFunct3 w with
    | 0b00000#5, 0b001#3 => .ok (.fclassS (fRd w) (fRs1 w))
    | 0b00000#5, 0b000#3 => .ok (.fmvXW (fRd w) (fRs1 w))
    | _, _ => .error .function
  | 0b1110001#7 =>
    match fRs2 w, fFunct3 w with
    | 0b00000#5, 0b001#3 => .ok (.fclassD (fRd w) (fRs1 w))
    | 0b00000#5, 0b000#3 => rv64 x (.fmvXD (fRd w) (fRs1 w))
    | _, _ => .error .function
  | 0b1100000#7 =>
    match fRs2 w with
    | 0b00000#5 => .ok (.fcvtWS (fRd w) (fRs1 w) (fFunct3 w))
    | 0b00001#5 => .ok (.fcvtWuS (fRd w) (fRs1 w) (fFunct3 w))
    | 0b00010#5 => rv64 x (.fcvtLS (fRd w) (fRs1 w) (fFunct3 w))
    | 0b00011#5 => rv64 x (.fcvtLuS (fRd w) (fRs1 w) (fFunct3 w))
    | _ => .error .function
  | 0b1100001#7 =>
    match fRs2 w with
    | 0b00000#5 => .ok (.fcvtWD (fRd w) (fRs1 w) (fFunct3 w))
    | 0b00001#5 => .ok (.fcvtWuD (fRd w) (fRs1 w) (fFunct3 w))
    | 0b00010#5 => rv64 x (.fcvtLD (fRd w) (fRs1 w) (fFunct3 w))
    | 0b00011#5 => rv64 x (.fcvtLuD (fRd w) (fRs1 w) (fFunct3 w))
    | _ => .error .function
  | 0b1101000#7 =>
    match fRs2 w with
    | 0b00000#5 => .ok (.fcvtSW (fRd w) (fRs1 w) (fFunct3 w))
    | 0b00001#5 => .ok (.fcvtSWu (fRd w) (fRs1 w) (fFunct3 w))
    | 0b00010#5 => rv64 x (.fcvtSL (fRd w) (fRs1 w) (fFunct3 w))
    | 0b00011#5 => rv64 x (.fcvtSLu (fRd w) (fRs1 w) (fFunct3 w))
    | _ => .error .function
  | 0b1101001#7 =>
    match fRs2 w with
    | 0b00000#5 => .ok (.fcvtDW (fRd w) (fRs1 w) (fFunct3 w))
    | 0b00001#5 => .ok (.fcvtDWu (fRd w) (fRs1 w) (fFunct3 w))
    | 0b00010#5 => rv64 x (.fcvtDL (fRd w) (fRs1 w) (fFunct3 w))
    | 0b00011#5 => rv64 x (.fcvtDLu (fRd w) (fRs1 w) (fFunct3 w))
    | _ => .error .function
  | 0b0100000#7 =>
    match fRs2 w with
    | 0b00001#5 => .ok (.fcvtSD (fRd w) (fRs1 w) (fFunct3 w))
    | _ => .error .function
  | 0b0100001#7 =>
    match fRs2 w with
    | 0b00000#5 => .ok (.fcvtDS (fRd w) (fRs1 w) (fFunct3 w))
    | _ => .error .function
  | 0b1111000#7 =>
    match fRs2 w, fFunct3 w with
    | 0b00000#5, 0b000#3 => .ok (.fmvWX (fRd w) (fRs1 w))
    | _, _ => .error .function
  | 0b1111001#7 =>
    match fRs2 w, fFunct3 w with
    | 0b00000#5, 0b000#3 => rv64 x (.fmvDX (fRd w) (fRs1 w))
    | _, _ => .error .function
  | _ => .error .function

/-- The instruction a 32-bit word is with this XLEN, whatever extensions the hart has. -/
def decode32 (x : Xlen) (w : BitVec 32) : Except Reject Instr :=
  match fOpcode w with
  | 0b0110111#7 => .ok (.lui (fRd w) (fImmU w))
  | 0b0010111#7 => .ok (.auipc (fRd w) (fImmU w))
  | 0b1101111#7 => .ok (.jal (fRd w) (fOffJ w))
  | 0b1100111#7 => decodeJalr w
  | 0b1100011#7 => decodeBranch w
  | 0b0000011#7 => decodeLoad x w
  | 0b0100011#7 => decodeStore x w
  | 0b0010011#7 => decodeOpImm x w
  | 0b0110011#7 => decodeOp w
  | 0b0001111#7 => decodeMiscMem w
  | 0b1110011#7 => decodeSystem w
  | 0b0011011#7 => decodeOpImm32 x w
  | 0b0111011#7 => decodeOp32 x w
  | 0b0101111#7 => decodeAmo x w
  | 0b0000111#7 => decodeLoadFp w
  | 0b0100111#7 => decodeStoreFp w
  | 0b1000011#7 => decodeFmadd w
  | 0b1000111#7 => decodeFmsub w
  | 0b1001011#7 => decodeFnmsub w
  | 0b1001111#7 => decodeFnmadd w
  | 0b1010011#7 => decodeOpFp x w
  | _ => .error .opcode

/-! ## Decoding a 16-bit parcel (45_c.md rule R502) -/

/-- Quadrant `op = 00`. -/
def decodeQ0 (x : Xlen) (p : BitVec 16) : Except Reject Instr :=
  match p.extractLsb' 13 3 with
  | 0b000#3 => onlyIf (cImm4spn p ≠ 0) (.cAddi4spn (cLow p) (cImm4spn p))
  | 0b001#3 => .ok (.cFld (cLow p) (cHigh p) (cImmD p))
  | 0b010#3 => .ok (.cLw (cLow p) (cHigh p) (cImmW p))
  | 0b011#3 =>
    match x with
    | .rv32 => .ok (.cFlw (cLow p) (cHigh p) (cImmW p))
    | .rv64 => .ok (.cLd (cLow p) (cHigh p) (cImmD p))
  | 0b101#3 => .ok (.cFsd (cLow p) (cHigh p) (cImmD p))
  | 0b110#3 => .ok (.cSw (cLow p) (cHigh p) (cImmW p))
  | 0b111#3 =>
    match x with
    | .rv32 => .ok (.cFsw (cLow p) (cHigh p) (cImmW p))
    | .rv64 => .ok (.cSd (cLow p) (cHigh p) (cImmD p))
  | _ => .error .opcode

/-- The arithmetic rows of quadrant `op = 01`, funct3 `100`. -/
def decodeQ1Arith (x : Xlen) (p : BitVec 16) : Except Reject Instr :=
  match p.extractLsb' 10 2 with
  | 0b00#2 => onlyIf (shamtOk x (cImm6 p)) (.cSrli (cHigh p) (cImm6 p))
  | 0b01#2 => onlyIf (shamtOk x (cImm6 p)) (.cSrai (cHigh p) (cImm6 p))
  | 0b10#2 => .ok (.cAndi (cHigh p) (cImm6 p))
  | _ =>
    match p.extractLsb' 12 1, p.extractLsb' 5 2 with
    | 0b0#1, 0b00#2 => .ok (.cSub (cHigh p) (cLow p))
    | 0b0#1, 0b01#2 => .ok (.cXor (cHigh p) (cLow p))
    | 0b0#1, 0b10#2 => .ok (.cOr (cHigh p) (cLow p))
    | 0b0#1, 0b11#2 => .ok (.cAnd (cHigh p) (cLow p))
    | 0b1#1, 0b00#2 => rv64 x (.cSubw (cHigh p) (cLow p))
    | 0b1#1, 0b01#2 => rv64 x (.cAddw (cHigh p) (cLow p))
    | _, _ => .error .function

/-- Quadrant `op = 01`. -/
def decodeQ1 (x : Xlen) (p : BitVec 16) : Except Reject Instr :=
  match p.extractLsb' 13 3 with
  | 0b000#3 => if cRd p = 0 then .ok (.cNop (cImm6 p)) else .ok (.cAddi (cRd p) (cImm6 p))
  | 0b001#3 =>
    match x with
    | .rv32 => .ok (.cJal (cOffJ p))
    | .rv64 => onlyIf (cRd p ≠ 0) (.cAddiw (cRd p) (cImm6 p))
  | 0b010#3 => .ok (.cLi (cRd p) (cImm6 p))
  | 0b011#3 =>
    if cRd p = 2 then onlyIf (cImm16sp p ≠ 0) (.cAddi16sp (cImm16sp p))
    else onlyIf (cImm6 p ≠ 0) (.cLui (cRd p) (cImm6 p))
  | 0b100#3 => decodeQ1Arith x p
  | 0b101#3 => .ok (.cJ (cOffJ p))
  | 0b110#3 => .ok (.cBeqz (cHigh p) (cOffB p))
  | _ => .ok (.cBnez (cHigh p) (cOffB p))

/-- Quadrant `op = 10`. -/
def decodeQ2 (x : Xlen) (p : BitVec 16) : Except Reject Instr :=
  match p.extractLsb' 13 3 with
  | 0b000#3 => onlyIf (shamtOk x (cImm6 p)) (.cSlli (cRd p) (cImm6 p))
  | 0b001#3 => .ok (.cFldsp (cRd p) (cImmLdsp p))
  | 0b010#3 => onlyIf (cRd p ≠ 0) (.cLwsp (cRd p) (cImmLwsp p))
  | 0b011#3 =>
    match x with
    | .rv32 => .ok (.cFlwsp (cRd p) (cImmLwsp p))
    | .rv64 => onlyIf (cRd p ≠ 0) (.cLdsp (cRd p) (cImmLdsp p))
  | 0b100#3 =>
    if p.getLsbD 12 = false then
      if cRs2 p = 0 then onlyIf (cRd p ≠ 0) (.cJr (cRd p)) else .ok (.cMv (cRd p) (cRs2 p))
    else if cRs2 p = 0 then
      if cRd p = 0 then .ok .cEbreak else .ok (.cJalr (cRd p))
    else onlyIf (cRd p ≠ 0) (.cAdd (cRd p) (cRs2 p))
  | 0b101#3 => .ok (.cFsdsp (cRs2 p) (cImmSdsp p))
  | 0b110#3 => .ok (.cSwsp (cRs2 p) (cImmSwsp p))
  | _ =>
    match x with
    | .rv32 => .ok (.cFswsp (cRs2 p) (cImmSwsp p))
    | .rv64 => .ok (.cSdsp (cRs2 p) (cImmSdsp p))

/-- The instruction a 16-bit parcel is with this XLEN, whatever extensions the hart has. -/
def decode16 (x : Xlen) (p : BitVec 16) : Except Reject Instr :=
  match p.extractLsb' 0 2 with
  | 0b00#2 => decodeQ0 x p
  | 0b01#2 => decodeQ1 x p
  | 0b10#2 => decodeQ2 x p
  | _ => .error .truncated

/-- The extensions that hold the instruction are present (the `ext` column of opcode_table.json; 44_fd.md rule R400,
45_c.md rule R502). The privileged instructions always decode: what each needs is tested when it executes
(47_privileged.md). -/
def Instr.extOk (c : Config) : Instr → Bool
  | .lui _ _
  | .auipc _ _
  | .jal _ _
  | .jalr _ _ _
  | .beq _ _ _
  | .bne _ _ _
  | .blt _ _ _
  | .bge _ _ _
  | .bltu _ _ _
  | .bgeu _ _ _
  | .lb _ _ _
  | .lh _ _ _
  | .lw _ _ _
  | .lbu _ _ _
  | .lhu _ _ _
  | .sb _ _ _
  | .sh _ _ _
  | .sw _ _ _
  | .addi _ _ _
  | .slti _ _ _
  | .sltiu _ _ _
  | .xori _ _ _
  | .ori _ _ _
  | .andi _ _ _
  | .slli _ _ _
  | .srli _ _ _
  | .srai _ _ _
  | .add _ _ _
  | .sub _ _ _
  | .sll _ _ _
  | .slt _ _ _
  | .sltu _ _ _
  | .xor _ _ _
  | .srl _ _ _
  | .sra _ _ _
  | .or _ _ _
  | .and _ _ _
  | .fence _ _
  | .fenceI
  | .ecall
  | .ebreak
  | .csrrw _ _ _
  | .csrrs _ _ _
  | .csrrc _ _ _
  | .csrrwi _ _ _
  | .csrrsi _ _ _
  | .csrrci _ _ _
  | .lwu _ _ _
  | .ld _ _ _
  | .sd _ _ _
  | .addiw _ _ _
  | .slliw _ _ _
  | .srliw _ _ _
  | .sraiw _ _ _
  | .addw _ _ _
  | .subw _ _ _
  | .sllw _ _ _
  | .srlw _ _ _
  | .sraw _ _ _
  | .mret
  | .sret
  | .wfi
  | .sfenceVma _ _ => true
  | .mul _ _ _
  | .mulh _ _ _
  | .mulhsu _ _ _
  | .mulhu _ _ _
  | .div _ _ _
  | .divu _ _ _
  | .rem _ _ _
  | .remu _ _ _
  | .mulw _ _ _
  | .divw _ _ _
  | .divuw _ _ _
  | .remw _ _ _
  | .remuw _ _ _ => c.ext.m
  | .lrW _ _ _ _
  | .scW _ _ _ _ _
  | .amoswapW _ _ _ _ _
  | .amoaddW _ _ _ _ _
  | .amoxorW _ _ _ _ _
  | .amoandW _ _ _ _ _
  | .amoorW _ _ _ _ _
  | .amominW _ _ _ _ _
  | .amomaxW _ _ _ _ _
  | .amominuW _ _ _ _ _
  | .amomaxuW _ _ _ _ _
  | .lrD _ _ _ _
  | .scD _ _ _ _ _
  | .amoswapD _ _ _ _ _
  | .amoaddD _ _ _ _ _
  | .amoxorD _ _ _ _ _
  | .amoandD _ _ _ _ _
  | .amoorD _ _ _ _ _
  | .amominD _ _ _ _ _
  | .amomaxD _ _ _ _ _
  | .amominuD _ _ _ _ _
  | .amomaxuD _ _ _ _ _ => c.ext.a
  | .flw _ _ _
  | .fsw _ _ _
  | .fmaddS _ _ _ _ _
  | .fmsubS _ _ _ _ _
  | .fnmsubS _ _ _ _ _
  | .fnmaddS _ _ _ _ _
  | .faddS _ _ _ _
  | .fsubS _ _ _ _
  | .fmulS _ _ _ _
  | .fdivS _ _ _ _
  | .fsqrtS _ _ _
  | .fsgnjS _ _ _
  | .fsgnjnS _ _ _
  | .fsgnjxS _ _ _
  | .fminS _ _ _
  | .fmaxS _ _ _
  | .feqS _ _ _
  | .fltS _ _ _
  | .fleS _ _ _
  | .fclassS _ _
  | .fcvtWS _ _ _
  | .fcvtWuS _ _ _
  | .fcvtSW _ _ _
  | .fcvtSWu _ _ _
  | .fmvXW _ _
  | .fmvWX _ _
  | .fcvtLS _ _ _
  | .fcvtLuS _ _ _
  | .fcvtSL _ _ _
  | .fcvtSLu _ _ _ => c.hasF
  | .fld _ _ _
  | .fsd _ _ _
  | .fmaddD _ _ _ _ _
  | .fmsubD _ _ _ _ _
  | .fnmsubD _ _ _ _ _
  | .fnmaddD _ _ _ _ _
  | .faddD _ _ _ _
  | .fsubD _ _ _ _
  | .fmulD _ _ _ _
  | .fdivD _ _ _ _
  | .fsqrtD _ _ _
  | .fsgnjD _ _ _
  | .fsgnjnD _ _ _
  | .fsgnjxD _ _ _
  | .fminD _ _ _
  | .fmaxD _ _ _
  | .feqD _ _ _
  | .fltD _ _ _
  | .fleD _ _ _
  | .fclassD _ _
  | .fcvtWD _ _ _
  | .fcvtWuD _ _ _
  | .fcvtDW _ _ _
  | .fcvtDWu _ _ _
  | .fcvtSD _ _ _
  | .fcvtDS _ _ _
  | .fcvtLD _ _ _
  | .fcvtLuD _ _ _
  | .fcvtDL _ _ _
  | .fcvtDLu _ _ _
  | .fmvXD _ _
  | .fmvDX _ _ => c.ext.d
  | .cAddi4spn _ _
  | .cLw _ _ _
  | .cLd _ _ _
  | .cSw _ _ _
  | .cSd _ _ _
  | .cNop _
  | .cAddi _ _
  | .cJal _
  | .cAddiw _ _
  | .cLi _ _
  | .cAddi16sp _
  | .cLui _ _
  | .cSrli _ _
  | .cSrai _ _
  | .cAndi _ _
  | .cSub _ _
  | .cXor _ _
  | .cOr _ _
  | .cAnd _ _
  | .cSubw _ _
  | .cAddw _ _
  | .cJ _
  | .cBeqz _ _
  | .cBnez _ _
  | .cSlli _ _
  | .cLwsp _ _
  | .cLdsp _ _
  | .cEbreak
  | .cJr _
  | .cJalr _
  | .cMv _ _
  | .cAdd _ _
  | .cSwsp _ _
  | .cSdsp _ _ => c.ext.c
  | .cFld _ _ _
  | .cFsd _ _ _
  | .cFldsp _ _
  | .cFsdsp _ _ => c.ext.c && c.ext.d
  | .cFlw _ _ _
  | .cFsw _ _ _
  | .cFlwsp _ _
  | .cFswsp _ _ => c.ext.c && c.hasF

/-- The instruction the bits are, with this XLEN, whatever extensions the hart has. -/
def decodeBits (x : Xlen) : Bits → Except Reject Instr
  | .short p => decode16 x p
  | .long w => decode32 x w

/-- The decoder: the instruction the bits are on this hart, or why they are none (30_encoding.md rule R172). -/
def decode (c : Config) (b : Bits) : Except Reject Instr :=
  match decodeBits c.xlen b with
  | .error r => .error r
  | .ok i => if i.extOk c then .ok i else .error .extension

/-- The encoder: the bits of an instruction (40_rv32i.md to 47_privileged.md, the encoding each rule prints). -/
def encode : Instr → Bits
  | .lui rd imm => .long (encU imm rd 0b0110111#7)
  | .auipc rd imm => .long (encU imm rd 0b0010111#7)
  | .jal rd offset => .long (encJ offset rd 0b1101111#7)
  | .jalr rd rs1 imm => .long (encI imm rs1 0b000#3 rd 0b1100111#7)
  | .beq rs1 rs2 offset => .long (encB offset rs2 rs1 0b000#3 0b1100011#7)
  | .bne rs1 rs2 offset => .long (encB offset rs2 rs1 0b001#3 0b1100011#7)
  | .blt rs1 rs2 offset => .long (encB offset rs2 rs1 0b100#3 0b1100011#7)
  | .bge rs1 rs2 offset => .long (encB offset rs2 rs1 0b101#3 0b1100011#7)
  | .bltu rs1 rs2 offset => .long (encB offset rs2 rs1 0b110#3 0b1100011#7)
  | .bgeu rs1 rs2 offset => .long (encB offset rs2 rs1 0b111#3 0b1100011#7)
  | .lb rd rs1 imm => .long (encI imm rs1 0b000#3 rd 0b0000011#7)
  | .lh rd rs1 imm => .long (encI imm rs1 0b001#3 rd 0b0000011#7)
  | .lw rd rs1 imm => .long (encI imm rs1 0b010#3 rd 0b0000011#7)
  | .lbu rd rs1 imm => .long (encI imm rs1 0b100#3 rd 0b0000011#7)
  | .lhu rd rs1 imm => .long (encI imm rs1 0b101#3 rd 0b0000011#7)
  | .sb rs2 rs1 imm => .long (encS imm rs2 rs1 0b000#3 0b0100011#7)
  | .sh rs2 rs1 imm => .long (encS imm rs2 rs1 0b001#3 0b0100011#7)
  | .sw rs2 rs1 imm => .long (encS imm rs2 rs1 0b010#3 0b0100011#7)
  | .addi rd rs1 imm => .long (encI imm rs1 0b000#3 rd 0b0010011#7)
  | .slti rd rs1 imm => .long (encI imm rs1 0b010#3 rd 0b0010011#7)
  | .sltiu rd rs1 imm => .long (encI imm rs1 0b011#3 rd 0b0010011#7)
  | .xori rd rs1 imm => .long (encI imm rs1 0b100#3 rd 0b0010011#7)
  | .ori rd rs1 imm => .long (encI imm rs1 0b110#3 rd 0b0010011#7)
  | .andi rd rs1 imm => .long (encI imm rs1 0b111#3 rd 0b0010011#7)
  | .slli rd rs1 shamt => .long (encSh 0b000000#6 shamt rs1 0b001#3 rd 0b0010011#7)
  | .srli rd rs1 shamt => .long (encSh 0b000000#6 shamt rs1 0b101#3 rd 0b0010011#7)
  | .srai rd rs1 shamt => .long (encSh 0b010000#6 shamt rs1 0b101#3 rd 0b0010011#7)
  | .add rd rs1 rs2 => .long (encR 0b0000000#7 rs2 rs1 0b000#3 rd 0b0110011#7)
  | .sub rd rs1 rs2 => .long (encR 0b0100000#7 rs2 rs1 0b000#3 rd 0b0110011#7)
  | .sll rd rs1 rs2 => .long (encR 0b0000000#7 rs2 rs1 0b001#3 rd 0b0110011#7)
  | .slt rd rs1 rs2 => .long (encR 0b0000000#7 rs2 rs1 0b010#3 rd 0b0110011#7)
  | .sltu rd rs1 rs2 => .long (encR 0b0000000#7 rs2 rs1 0b011#3 rd 0b0110011#7)
  | .xor rd rs1 rs2 => .long (encR 0b0000000#7 rs2 rs1 0b100#3 rd 0b0110011#7)
  | .srl rd rs1 rs2 => .long (encR 0b0000000#7 rs2 rs1 0b101#3 rd 0b0110011#7)
  | .sra rd rs1 rs2 => .long (encR 0b0100000#7 rs2 rs1 0b101#3 rd 0b0110011#7)
  | .or rd rs1 rs2 => .long (encR 0b0000000#7 rs2 rs1 0b110#3 rd 0b0110011#7)
  | .and rd rs1 rs2 => .long (encR 0b0000000#7 rs2 rs1 0b111#3 rd 0b0110011#7)
  | .fence pred succ => .long (encI (0b0000#4 ++ pred ++ succ) 0 0b000#3 0 0b0001111#7)
  | .fenceI => .long (encI 0b000000000000#12 0 0b001#3 0 0b0001111#7)
  | .ecall => .long (encI 0b000000000000#12 0 0b000#3 0 0b1110011#7)
  | .ebreak => .long (encI 0b000000000001#12 0 0b000#3 0 0b1110011#7)
  | .csrrw rd csr rs1 => .long (encI csr rs1 0b001#3 rd 0b1110011#7)
  | .csrrs rd csr rs1 => .long (encI csr rs1 0b010#3 rd 0b1110011#7)
  | .csrrc rd csr rs1 => .long (encI csr rs1 0b011#3 rd 0b1110011#7)
  | .csrrwi rd csr zimm => .long (encI csr zimm 0b101#3 rd 0b1110011#7)
  | .csrrsi rd csr zimm => .long (encI csr zimm 0b110#3 rd 0b1110011#7)
  | .csrrci rd csr zimm => .long (encI csr zimm 0b111#3 rd 0b1110011#7)
  | .lwu rd rs1 imm => .long (encI imm rs1 0b110#3 rd 0b0000011#7)
  | .ld rd rs1 imm => .long (encI imm rs1 0b011#3 rd 0b0000011#7)
  | .sd rs2 rs1 imm => .long (encS imm rs2 rs1 0b011#3 0b0100011#7)
  | .addiw rd rs1 imm => .long (encI imm rs1 0b000#3 rd 0b0011011#7)
  | .slliw rd rs1 shamt => .long (encR 0b0000000#7 shamt rs1 0b001#3 rd 0b0011011#7)
  | .srliw rd rs1 shamt => .long (encR 0b0000000#7 shamt rs1 0b101#3 rd 0b0011011#7)
  | .sraiw rd rs1 shamt => .long (encR 0b0100000#7 shamt rs1 0b101#3 rd 0b0011011#7)
  | .addw rd rs1 rs2 => .long (encR 0b0000000#7 rs2 rs1 0b000#3 rd 0b0111011#7)
  | .subw rd rs1 rs2 => .long (encR 0b0100000#7 rs2 rs1 0b000#3 rd 0b0111011#7)
  | .sllw rd rs1 rs2 => .long (encR 0b0000000#7 rs2 rs1 0b001#3 rd 0b0111011#7)
  | .srlw rd rs1 rs2 => .long (encR 0b0000000#7 rs2 rs1 0b101#3 rd 0b0111011#7)
  | .sraw rd rs1 rs2 => .long (encR 0b0100000#7 rs2 rs1 0b101#3 rd 0b0111011#7)
  | .mul rd rs1 rs2 => .long (encR 0b0000001#7 rs2 rs1 0b000#3 rd 0b0110011#7)
  | .mulh rd rs1 rs2 => .long (encR 0b0000001#7 rs2 rs1 0b001#3 rd 0b0110011#7)
  | .mulhsu rd rs1 rs2 => .long (encR 0b0000001#7 rs2 rs1 0b010#3 rd 0b0110011#7)
  | .mulhu rd rs1 rs2 => .long (encR 0b0000001#7 rs2 rs1 0b011#3 rd 0b0110011#7)
  | .div rd rs1 rs2 => .long (encR 0b0000001#7 rs2 rs1 0b100#3 rd 0b0110011#7)
  | .divu rd rs1 rs2 => .long (encR 0b0000001#7 rs2 rs1 0b101#3 rd 0b0110011#7)
  | .rem rd rs1 rs2 => .long (encR 0b0000001#7 rs2 rs1 0b110#3 rd 0b0110011#7)
  | .remu rd rs1 rs2 => .long (encR 0b0000001#7 rs2 rs1 0b111#3 rd 0b0110011#7)
  | .mulw rd rs1 rs2 => .long (encR 0b0000001#7 rs2 rs1 0b000#3 rd 0b0111011#7)
  | .divw rd rs1 rs2 => .long (encR 0b0000001#7 rs2 rs1 0b100#3 rd 0b0111011#7)
  | .divuw rd rs1 rs2 => .long (encR 0b0000001#7 rs2 rs1 0b101#3 rd 0b0111011#7)
  | .remw rd rs1 rs2 => .long (encR 0b0000001#7 rs2 rs1 0b110#3 rd 0b0111011#7)
  | .remuw rd rs1 rs2 => .long (encR 0b0000001#7 rs2 rs1 0b111#3 rd 0b0111011#7)
  | .lrW rd rs1 aq rl => .long (encA 0b00010#5 aq rl 0 rs1 0b010#3 rd)
  | .scW rd rs2 rs1 aq rl => .long (encA 0b00011#5 aq rl rs2 rs1 0b010#3 rd)
  | .amoswapW rd rs2 rs1 aq rl => .long (encA 0b00001#5 aq rl rs2 rs1 0b010#3 rd)
  | .amoaddW rd rs2 rs1 aq rl => .long (encA 0b00000#5 aq rl rs2 rs1 0b010#3 rd)
  | .amoxorW rd rs2 rs1 aq rl => .long (encA 0b00100#5 aq rl rs2 rs1 0b010#3 rd)
  | .amoandW rd rs2 rs1 aq rl => .long (encA 0b01100#5 aq rl rs2 rs1 0b010#3 rd)
  | .amoorW rd rs2 rs1 aq rl => .long (encA 0b01000#5 aq rl rs2 rs1 0b010#3 rd)
  | .amominW rd rs2 rs1 aq rl => .long (encA 0b10000#5 aq rl rs2 rs1 0b010#3 rd)
  | .amomaxW rd rs2 rs1 aq rl => .long (encA 0b10100#5 aq rl rs2 rs1 0b010#3 rd)
  | .amominuW rd rs2 rs1 aq rl => .long (encA 0b11000#5 aq rl rs2 rs1 0b010#3 rd)
  | .amomaxuW rd rs2 rs1 aq rl => .long (encA 0b11100#5 aq rl rs2 rs1 0b010#3 rd)
  | .lrD rd rs1 aq rl => .long (encA 0b00010#5 aq rl 0 rs1 0b011#3 rd)
  | .scD rd rs2 rs1 aq rl => .long (encA 0b00011#5 aq rl rs2 rs1 0b011#3 rd)
  | .amoswapD rd rs2 rs1 aq rl => .long (encA 0b00001#5 aq rl rs2 rs1 0b011#3 rd)
  | .amoaddD rd rs2 rs1 aq rl => .long (encA 0b00000#5 aq rl rs2 rs1 0b011#3 rd)
  | .amoxorD rd rs2 rs1 aq rl => .long (encA 0b00100#5 aq rl rs2 rs1 0b011#3 rd)
  | .amoandD rd rs2 rs1 aq rl => .long (encA 0b01100#5 aq rl rs2 rs1 0b011#3 rd)
  | .amoorD rd rs2 rs1 aq rl => .long (encA 0b01000#5 aq rl rs2 rs1 0b011#3 rd)
  | .amominD rd rs2 rs1 aq rl => .long (encA 0b10000#5 aq rl rs2 rs1 0b011#3 rd)
  | .amomaxD rd rs2 rs1 aq rl => .long (encA 0b10100#5 aq rl rs2 rs1 0b011#3 rd)
  | .amominuD rd rs2 rs1 aq rl => .long (encA 0b11000#5 aq rl rs2 rs1 0b011#3 rd)
  | .amomaxuD rd rs2 rs1 aq rl => .long (encA 0b11100#5 aq rl rs2 rs1 0b011#3 rd)
  | .flw rd rs1 imm => .long (encI imm rs1 0b010#3 rd 0b0000111#7)
  | .fsw rs2 rs1 imm => .long (encS imm rs2 rs1 0b010#3 0b0100111#7)
  | .fld rd rs1 imm => .long (encI imm rs1 0b011#3 rd 0b0000111#7)
  | .fsd rs2 rs1 imm => .long (encS imm rs2 rs1 0b011#3 0b0100111#7)
  | .fmaddS rd rs1 rs2 rs3 rm => .long (encR4 rs3 0b00#2 rs2 rs1 rm rd 0b1000011#7)
  | .fmaddD rd rs1 rs2 rs3 rm => .long (encR4 rs3 0b01#2 rs2 rs1 rm rd 0b1000011#7)
  | .fmsubS rd rs1 rs2 rs3 rm => .long (encR4 rs3 0b00#2 rs2 rs1 rm rd 0b1000111#7)
  | .fmsubD rd rs1 rs2 rs3 rm => .long (encR4 rs3 0b01#2 rs2 rs1 rm rd 0b1000111#7)
  | .fnmsubS rd rs1 rs2 rs3 rm => .long (encR4 rs3 0b00#2 rs2 rs1 rm rd 0b1001011#7)
  | .fnmsubD rd rs1 rs2 rs3 rm => .long (encR4 rs3 0b01#2 rs2 rs1 rm rd 0b1001011#7)
  | .fnmaddS rd rs1 rs2 rs3 rm => .long (encR4 rs3 0b00#2 rs2 rs1 rm rd 0b1001111#7)
  | .fnmaddD rd rs1 rs2 rs3 rm => .long (encR4 rs3 0b01#2 rs2 rs1 rm rd 0b1001111#7)
  | .faddS rd rs1 rs2 rm => .long (encR 0b0000000#7 rs2 rs1 rm rd 0b1010011#7)
  | .faddD rd rs1 rs2 rm => .long (encR 0b0000001#7 rs2 rs1 rm rd 0b1010011#7)
  | .fsubS rd rs1 rs2 rm => .long (encR 0b0000100#7 rs2 rs1 rm rd 0b1010011#7)
  | .fsubD rd rs1 rs2 rm => .long (encR 0b0000101#7 rs2 rs1 rm rd 0b1010011#7)
  | .fmulS rd rs1 rs2 rm => .long (encR 0b0001000#7 rs2 rs1 rm rd 0b1010011#7)
  | .fmulD rd rs1 rs2 rm => .long (encR 0b0001001#7 rs2 rs1 rm rd 0b1010011#7)
  | .fdivS rd rs1 rs2 rm => .long (encR 0b0001100#7 rs2 rs1 rm rd 0b1010011#7)
  | .fdivD rd rs1 rs2 rm => .long (encR 0b0001101#7 rs2 rs1 rm rd 0b1010011#7)
  | .fsqrtS rd rs1 rm => .long (encR 0b0101100#7 0b00000#5 rs1 rm rd 0b1010011#7)
  | .fsqrtD rd rs1 rm => .long (encR 0b0101101#7 0b00000#5 rs1 rm rd 0b1010011#7)
  | .fsgnjS rd rs1 rs2 => .long (encR 0b0010000#7 rs2 rs1 0b000#3 rd 0b1010011#7)
  | .fsgnjD rd rs1 rs2 => .long (encR 0b0010001#7 rs2 rs1 0b000#3 rd 0b1010011#7)
  | .fsgnjnS rd rs1 rs2 => .long (encR 0b0010000#7 rs2 rs1 0b001#3 rd 0b1010011#7)
  | .fsgnjnD rd rs1 rs2 => .long (encR 0b0010001#7 rs2 rs1 0b001#3 rd 0b1010011#7)
  | .fsgnjxS rd rs1 rs2 => .long (encR 0b0010000#7 rs2 rs1 0b010#3 rd 0b1010011#7)
  | .fsgnjxD rd rs1 rs2 => .long (encR 0b0010001#7 rs2 rs1 0b010#3 rd 0b1010011#7)
  | .fminS rd rs1 rs2 => .long (encR 0b0010100#7 rs2 rs1 0b000#3 rd 0b1010011#7)
  | .fminD rd rs1 rs2 => .long (encR 0b0010101#7 rs2 rs1 0b000#3 rd 0b1010011#7)
  | .fmaxS rd rs1 rs2 => .long (encR 0b0010100#7 rs2 rs1 0b001#3 rd 0b1010011#7)
  | .fmaxD rd rs1 rs2 => .long (encR 0b0010101#7 rs2 rs1 0b001#3 rd 0b1010011#7)
  | .feqS rd rs1 rs2 => .long (encR 0b1010000#7 rs2 rs1 0b010#3 rd 0b1010011#7)
  | .feqD rd rs1 rs2 => .long (encR 0b1010001#7 rs2 rs1 0b010#3 rd 0b1010011#7)
  | .fltS rd rs1 rs2 => .long (encR 0b1010000#7 rs2 rs1 0b001#3 rd 0b1010011#7)
  | .fltD rd rs1 rs2 => .long (encR 0b1010001#7 rs2 rs1 0b001#3 rd 0b1010011#7)
  | .fleS rd rs1 rs2 => .long (encR 0b1010000#7 rs2 rs1 0b000#3 rd 0b1010011#7)
  | .fleD rd rs1 rs2 => .long (encR 0b1010001#7 rs2 rs1 0b000#3 rd 0b1010011#7)
  | .fclassS rd rs1 => .long (encR 0b1110000#7 0b00000#5 rs1 0b001#3 rd 0b1010011#7)
  | .fclassD rd rs1 => .long (encR 0b1110001#7 0b00000#5 rs1 0b001#3 rd 0b1010011#7)
  | .fcvtWS rd rs1 rm => .long (encR 0b1100000#7 0b00000#5 rs1 rm rd 0b1010011#7)
  | .fcvtWD rd rs1 rm => .long (encR 0b1100001#7 0b00000#5 rs1 rm rd 0b1010011#7)
  | .fcvtWuS rd rs1 rm => .long (encR 0b1100000#7 0b00001#5 rs1 rm rd 0b1010011#7)
  | .fcvtWuD rd rs1 rm => .long (encR 0b1100001#7 0b00001#5 rs1 rm rd 0b1010011#7)
  | .fcvtSW rd rs1 rm => .long (encR 0b1101000#7 0b00000#5 rs1 rm rd 0b1010011#7)
  | .fcvtDW rd rs1 rm => .long (encR 0b1101001#7 0b00000#5 rs1 rm rd 0b1010011#7)
  | .fcvtSWu rd rs1 rm => .long (encR 0b1101000#7 0b00001#5 rs1 rm rd 0b1010011#7)
  | .fcvtDWu rd rs1 rm => .long (encR 0b1101001#7 0b00001#5 rs1 rm rd 0b1010011#7)
  | .fcvtSD rd rs1 rm => .long (encR 0b0100000#7 0b00001#5 rs1 rm rd 0b1010011#7)
  | .fcvtDS rd rs1 rm => .long (encR 0b0100001#7 0b00000#5 rs1 rm rd 0b1010011#7)
  | .fmvXW rd rs1 => .long (encR 0b1110000#7 0b00000#5 rs1 0b000#3 rd 0b1010011#7)
  | .fmvWX rd rs1 => .long (encR 0b1111000#7 0b00000#5 rs1 0b000#3 rd 0b1010011#7)
  | .fcvtLS rd rs1 rm => .long (encR 0b1100000#7 0b00010#5 rs1 rm rd 0b1010011#7)
  | .fcvtLD rd rs1 rm => .long (encR 0b1100001#7 0b00010#5 rs1 rm rd 0b1010011#7)
  | .fcvtLuS rd rs1 rm => .long (encR 0b1100000#7 0b00011#5 rs1 rm rd 0b1010011#7)
  | .fcvtLuD rd rs1 rm => .long (encR 0b1100001#7 0b00011#5 rs1 rm rd 0b1010011#7)
  | .fcvtSL rd rs1 rm => .long (encR 0b1101000#7 0b00010#5 rs1 rm rd 0b1010011#7)
  | .fcvtDL rd rs1 rm => .long (encR 0b1101001#7 0b00010#5 rs1 rm rd 0b1010011#7)
  | .fcvtSLu rd rs1 rm => .long (encR 0b1101000#7 0b00011#5 rs1 rm rd 0b1010011#7)
  | .fcvtDLu rd rs1 rm => .long (encR 0b1101001#7 0b00011#5 rs1 rm rd 0b1010011#7)
  | .fmvXD rd rs1 => .long (encR 0b1110001#7 0b00000#5 rs1 0b000#3 rd 0b1010011#7)
  | .fmvDX rd rs1 => .long (encR 0b1111001#7 0b00000#5 rs1 0b000#3 rd 0b1010011#7)
  | .mret => .long (encI 0b001100000010#12 0 0b000#3 0 0b1110011#7)
  | .sret => .long (encI 0b000100000010#12 0 0b000#3 0 0b1110011#7)
  | .wfi => .long (encI 0b000100000101#12 0 0b000#3 0 0b1110011#7)
  | .sfenceVma rs1 rs2 => .long (encR 0b0001001#7 rs2 rs1 0b000#3 0 0b1110011#7)
  | .cAddi4spn rd uimm => .short (encC4spn uimm rd)
  | .cFld rd rs1 uimm => .short (encCD 0b001#3 uimm rs1 rd)
  | .cLw rd rs1 uimm => .short (encCW 0b010#3 uimm rs1 rd)
  | .cFlw rd rs1 uimm => .short (encCW 0b011#3 uimm rs1 rd)
  | .cLd rd rs1 uimm => .short (encCD 0b011#3 uimm rs1 rd)
  | .cFsd rs2 rs1 uimm => .short (encCD 0b101#3 uimm rs1 rs2)
  | .cSw rs2 rs1 uimm => .short (encCW 0b110#3 uimm rs1 rs2)
  | .cFsw rs2 rs1 uimm => .short (encCW 0b111#3 uimm rs1 rs2)
  | .cSd rs2 rs1 uimm => .short (encCD 0b111#3 uimm rs1 rs2)
  | .cNop imm => .short (encCI 0b000#3 imm 0 0b01#2)
  | .cAddi rd imm => .short (encCI 0b000#3 imm rd 0b01#2)
  | .cJal offset => .short (encCJ 0b001#3 offset)
  | .cAddiw rd imm => .short (encCI 0b001#3 imm rd 0b01#2)
  | .cLi rd imm => .short (encCI 0b010#3 imm rd 0b01#2)
  | .cAddi16sp imm => .short (encC16sp imm)
  | .cLui rd imm => .short (encCI 0b011#3 imm rd 0b01#2)
  | .cSrli rd uimm => .short (encCAI 0b00#2 uimm rd)
  | .cSrai rd uimm => .short (encCAI 0b01#2 uimm rd)
  | .cAndi rd imm => .short (encCAI 0b10#2 imm rd)
  | .cSub rd rs2 => .short (encCA 0b100011#6 0b00#2 rd rs2)
  | .cXor rd rs2 => .short (encCA 0b100011#6 0b01#2 rd rs2)
  | .cOr rd rs2 => .short (encCA 0b100011#6 0b10#2 rd rs2)
  | .cAnd rd rs2 => .short (encCA 0b100011#6 0b11#2 rd rs2)
  | .cSubw rd rs2 => .short (encCA 0b100111#6 0b00#2 rd rs2)
  | .cAddw rd rs2 => .short (encCA 0b100111#6 0b01#2 rd rs2)
  | .cJ offset => .short (encCJ 0b101#3 offset)
  | .cBeqz rs1 offset => .short (encCB 0b110#3 rs1 offset)
  | .cBnez rs1 offset => .short (encCB 0b111#3 rs1 offset)
  | .cSlli rd uimm => .short (encCI 0b000#3 uimm rd 0b10#2)
  | .cFldsp rd uimm => .short (encCLdsp 0b001#3 uimm rd)
  | .cLwsp rd uimm => .short (encCLwsp 0b010#3 uimm rd)
  | .cFlwsp rd uimm => .short (encCLwsp 0b011#3 uimm rd)
  | .cLdsp rd uimm => .short (encCLdsp 0b011#3 uimm rd)
  | .cEbreak => .short (encCR 0b1001#4 0 0)
  | .cJr rs1 => .short (encCR 0b1000#4 rs1 0)
  | .cJalr rs1 => .short (encCR 0b1001#4 rs1 0)
  | .cMv rd rs2 => .short (encCR 0b1000#4 rd rs2)
  | .cAdd rd rs2 => .short (encCR 0b1001#4 rd rs2)
  | .cFsdsp rs2 uimm => .short (encCSdsp 0b101#3 uimm rs2)
  | .cSwsp rs2 uimm => .short (encCSwsp 0b110#3 uimm rs2)
  | .cFswsp rs2 uimm => .short (encCSwsp 0b111#3 uimm rs2)
  | .cSdsp rs2 uimm => .short (encCSdsp 0b111#3 uimm rs2)

/-- The 16-bit parcel at the head of a list of bytes, the first byte being the low one (20_memory.md rules R102,
R103). -/
def parcelOf (lo hi : Byte) : BitVec 16 := hi ++ lo

/-- Decodes the instruction at the head of a list of bytes in memory order and gives the bytes after it: bits 1:0 of
the first parcel give its length (30_encoding.md rule R163). -/
def decodeBytes (c : Config) : List Byte → Except Reject (Instr × List Byte)
  | b0 :: b1 :: rest =>
    if (parcelOf b0 b1).extractLsb' 0 2 = 0b11#2 then
      match rest with
      | b2 :: b3 :: rest' =>
        match decode c (.long (parcelOf b2 b3 ++ parcelOf b0 b1)) with
        | .ok i => .ok (i, rest')
        | .error r => .error r
      | _ => .error .truncated
    else
      match decode c (.short (parcelOf b0 b1)) with
      | .ok i => .ok (i, rest)
      | .error r => .error r
  | _ => .error .truncated

/-- The bytes of an instruction in memory order: little-endian (20_memory.md rule R103). -/
def Bits.bytes : Bits → List Byte
  | .short p => [p.extractLsb' 0 8, p.extractLsb' 8 8]
  | .long w => [w.extractLsb' 0 8, w.extractLsb' 8 8, w.extractLsb' 16 8, w.extractLsb' 24 8]

/-- The four bytes, in memory order, of a table word of `nbits` bits whose further bits are zero. -/
def tableBytes (nbits w : Nat) : List Byte := (Bits.long (BitVec.ofNat 32 (w % 2 ^ nbits))).bytes

/-- The configuration under which a word of the opcode table is looked up first: the one `State.reset` has. A row that
exists in RV32 only is looked up with XLEN = 32 next (log 11). -/
def tableConfigs : List Config := [Config.default, { Config.default with xlen := .rv32 }]

/-- The first configuration of the list in which the bytes are an instruction, with the instruction. -/
def decodeUnder (bytes : List Byte) : List Config → Option (Config × Instr)
  | [] => none
  | c :: cs =>
    match decodeBytes c bytes with
    | .ok (i, _) => some (c, i)
    | .error _ => decodeUnder bytes cs

/-- The instruction the decoder reads from a word of opcode_table.json: bit 0 is the least significant bit of the first
parcel, a second parcel's bits count on from it. -/
def decodeTableWord (nbits w : Nat) : Option Instr :=
  (decodeUnder (tableBytes nbits w) tableConfigs).map Prod.snd

end Sys2Proof
end

