-- ==== Sys2Proof/Machine/State.lean ====
section
/-!
DEFINITION. The state of the machine: one hart, memory, the timer and the environment's coming inputs (10_state.md rule
R68), as plain data; the reasons a step can stop; the machine right after reset (10_state.md rule R67).

A register of XLEN bits is held in 64 bits; the operations of Machine/Operands.lean and Machine/Csr.lean read and write
its low XLEN bits.
-/

namespace Sys2Proof.Machine

/-- A privilege mode (10_state.md rule R28). -/
inductive Priv where
  /-- User, encoded 00. -/
  | u
  /-- Supervisor, encoded 01. -/
  | s
  /-- Machine, encoded 11. -/
  | m
  deriving DecidableEq, Repr

/-- A cause of a synchronous exception (60_exceptions.md rule R701). -/
inductive Exc where
  | instrMisaligned
  | instrAccessFault
  | illegalInstruction
  | breakpoint
  | loadMisaligned
  | loadAccessFault
  | storeMisaligned
  | storeAccessFault
  | ecallU
  | ecallS
  | ecallM
  | instrPageFault
  | loadPageFault
  | storePageFault
  deriving DecidableEq, Repr

/-- A cause of an interrupt (60_exceptions.md rule R702). -/
inductive Intr where
  | supervisorSoftware
  | machineSoftware
  | supervisorTimer
  | machineTimer
  | supervisorExternal
  | machineExternal
  deriving DecidableEq, Repr

/-- A synchronous exception to be taken: its cause and its trap value (60_exceptions.md rule R703). -/
structure Trap where
  exc : Exc
  tval : Word
  deriving DecidableEq, Repr

/-- What an access does with memory (20_memory.md rule R110). The atomic kinds are told apart because their alignment
rule differs (20_memory.md rule R109). -/
inductive Access where
  | fetch
  | load
  | store
  /-- `lr`. -/
  | loadReserved
  /-- `sc`. -/
  | storeConditional
  /-- An AMO. -/
  | amo
  deriving DecidableEq, Repr

/-- Where the bytes of one access lie (20_memory.md rule R108): together at a physical address, or, for a misaligned
access, one by one. -/
inductive Place where
  | whole (pa : Nat)
  | bytes (pas : List Nat)
  deriving DecidableEq, Repr

/-- A memory-mapped register, or the half of one that a 4-byte access names (10_state.md rule R62). -/
inductive DevReg where
  | mtime
  | mtimeLo
  | mtimeHi
  | mtimecmp
  | mtimecmpLo
  | mtimecmpHi
  | msip
  deriving DecidableEq, Repr

/-- The rounding modes (10_state.md rule R33). -/
inductive Rm where
  /-- To nearest, ties to even. -/
  | rne
  /-- Toward zero. -/
  | rtz
  /-- Toward minus infinity. -/
  | rdn
  /-- Toward plus infinity. -/
  | rup
  /-- To nearest, ties to maximum magnitude. -/
  | rmm
  deriving DecidableEq, Repr

/-- The control and status registers of 10_state.md rule R42, by name, and `vcfgd` (rule R66). -/
inductive Csr where
  | fflags | frm | fcsr
  | cycle | time | instret | cycleh | timeh | instreth
  | sstatus | sie | stvec | sscratch | sepc | scause | stval | sip | satp
  | mstatus | medeleg | mideleg | mie | mtvec | mscratch | mepc | mcause | mtval | mip
  /-- `pmpcfg0` to `pmpcfg3`. -/
  | pmpcfg (k : Fin 4)
  /-- `pmpaddr0` to `pmpaddr15`. -/
  | pmpaddr (i : Fin 16)
  | vcfgd
  deriving DecidableEq, Repr

/-- The fields of `mstatus` that hold anything (10_state.md rules R46, R47); the read computes the others, which are
hard-wired. -/
structure Mstatus where
  mie : Bool
  mpie : Bool
  mpp : Priv
  sie : Bool
  spie : Bool
  spp : Bool
  sum : Bool
  mxr : Bool
  deriving DecidableEq, Repr

/-- The physical address and the width in bytes of the latest `lr` (43_a.md rule R365). -/
structure Reservation where
  addr : Nat
  size : Nat
  deriving DecidableEq, Repr

/-- A cached translation: the leaf PTE that a walk found, the level it was found at, the first virtual address of its
page and the address space (10_state.md rule R39). -/
structure TlbEntry where
  page : Word
  level : Nat
  asid : Nat
  pte : Word
  deriving DecidableEq, Repr

/-- What the environment does between one instruction and the next (60_exceptions.md rules R745, R747, R748). The
model's own type, log 9. -/
structure Input where
  /-- What `mtime` gains. -/
  mtimeDelta : BitVec 64
  /-- Cycles beyond the one of the step (60_exceptions.md rule R760). -/
  extraCycles : BitVec 64
  /-- The machine external interrupt line. -/
  meip : Bool
  /-- The supervisor external interrupt line. -/
  seip : Bool
  /-- Another hart's store to this hart's `msip`, if there is one. -/
  msip : Option Bool
  /-- Bytes that other harts or devices write, in order. -/
  writes : List Host.Cell
  deriving DecidableEq, Repr

/-- Memory: the physical addresses whose byte is not the one an unlisted address reads as, strictly rising, each with
its byte (20_memory.md rule R100). -/
abbrev Memory := List Host.Cell

/-- The state of the machine. INVENTORY.md lists each field with its rule. -/
structure State where
  /-- The implementation's parameters; no step changes them. -/
  cfg : Config
  /-- `x0` to `x31`. -/
  x : Vector Word 32
  pc : Word
  priv : Priv
  /-- `f0` to `f31`. -/
  f : Vector Word 32
  /-- The live bits of `fcsr`: `frm` 7:5, `fflags` 4:0. -/
  fcsr : BitVec 8
  reservation : Option Reservation
  /-- The hart is stalled in `wfi`. -/
  waiting : Bool
  mstatus : Mstatus
  mtvec : Word
  mepc : Word
  mcause : Word
  mtval : Word
  mscratch : Word
  mie : Word
  /-- `mip.SSIP`. -/
  ssip : Bool
  /-- `mip.STIP`. -/
  stip : Bool
  /-- The bit of `mip.SEIP` that software writes. -/
  seip : Bool
  /-- The machine external interrupt line. -/
  meipLine : Bool
  /-- The supervisor external interrupt line. -/
  seipLine : Bool
  medeleg : Word
  mideleg : Word
  /-- The configuration bytes of PMP entries 0 to 15. -/
  pmpcfg : Vector (BitVec 8) 16
  pmpaddr : Vector Word 16
  stvec : Word
  sepc : Word
  scause : Word
  sscratch : Word
  stval : Word
  satp : Word
  cycle : BitVec 64
  instret : BitVec 64
  mtime : BitVec 64
  mtimecmp : BitVec 64
  /-- Bit 0 of the memory-mapped register `msip`. -/
  msip : Bool
  /-- The elements of `v0` to `v31` that were written since the last `vsetdcfg`, by index. -/
  vregs : Vector (List (Nat × BitVec 64)) 32
  vtype : Vector (BitVec 5) 32
  /-- The bits of `vp0` to `vp7` that were written since the last `vsetdcfg`, by index. -/
  vp : Vector (List (Nat × Bool)) 8
  /-- Which predicate registers are enabled. -/
  vpOn : Vector Bool 8
  /-- The draw that the vector elements and predicate bits not written since then come from; none before the first
  `vsetdcfg`, when they are zero. The model's own field, log 10. -/
  vfill : Option Nat
  vl : Nat
  vcfgd : Word
  /-- The cached translations. -/
  tlb : List TlbEntry
  /-- The bytes a fetch still sees at addresses stored to since the last `fence.i`. -/
  staleFetch : List Host.Cell
  mem : Memory
  /-- The environment's inputs for the coming steps. The model's own field, log 9. -/
  inputs : List Input
  /-- Counts the free values drawn. The model's own field, log 10. -/
  free : Nat
  deriving DecidableEq, Repr

/-- Why the machine stops with a fault: never. Every event the spec describes is an exception, which is taken
(60_exceptions.md rule R700). No constructor; safe. -/
inductive Fault where
  deriving DecidableEq, Repr

/-- Why there is no next state. -/
inductive Refusal where
  /-- Raised by an arm of `exec` whose instruction has no meaning yet; safe, the machine stops. -/
  | notModelled (mnemonic : String)
  /-- Raised by a vector AMO, of which the spec has the name only (46_v.md rules R1013 to R1019); safe, the machine
  stops. No word decodes to one. -/
  | vectorNameOnly (mnemonic : String)
  deriving DecidableEq, Repr

/-- The outcome of a step or of an instruction. -/
abbrev Result := Host.Outcome State Fault Refusal

/-- The machine right after reset (10_state.md rule R67; 70_reset_and_hazards.md rule R781): `pc` at `RESET_PC`,
machine mode, interrupts off, every PMP entry off and unlocked, no reservation, nothing cached. Every other register,
which the spec leaves unspecified, is zero: DESIGN CHOICE, log 3. The zeros of `vtype` and `vpOn` stand beside a zero
`vcfgd` and need not agree with what `decode_vcfgd` gives for it: log 3. Memory lists nothing: DESIGN CHOICE, log 4. -/
def State.reset : State where
  cfg := Config.default
  x := Vector.replicate 32 0
  pc := Config.default.resetPc
  priv := .m
  f := Vector.replicate 32 0
  fcsr := 0
  reservation := none
  waiting := false
  mstatus := { mie := false, mpie := false, mpp := .u, sie := false, spie := false, spp := false,
               sum := false, mxr := false }
  mtvec := 0
  mepc := 0
  mcause := 0
  mtval := 0
  mscratch := 0
  mie := 0
  ssip := false
  stip := false
  seip := false
  meipLine := false
  seipLine := false
  medeleg := 0
  mideleg := 0
  pmpcfg := Vector.replicate 16 0
  pmpaddr := Vector.replicate 16 0
  stvec := 0
  sepc := 0
  scause := 0
  sscratch := 0
  stval := 0
  satp := 0
  cycle := 0
  instret := 0
  mtime := 0
  mtimecmp := 0
  msip := false
  vregs := Vector.replicate 32 []
  vtype := Vector.replicate 32 0
  vp := Vector.replicate 8 []
  vpOn := Vector.replicate 8 false
  vfill := none
  vl := 0
  vcfgd := 0
  tlb := []
  staleFetch := []
  mem := []
  inputs := []
  free := 0

end Sys2Proof.Machine
end

