-- ==== Sys2Proof/Machine/Operands.lean ====
section
/-!
DEFINITION. The operands: the registers as instructions read and write them (10_state.md rules R20, R21, R25, R30, R31),
immediates (30_encoding.md rules R164, R182; 45_c.md rule R504), effective addresses (20_memory.md rule R105), and how an
instruction ends (10_state.md rule R25).
-/

namespace Sys2Proof.Machine

/-! ## Integer registers and pc -/

/-- `x[r]`, XLEN bits; `x0` reads 0 (10_state.md rules R20, R21). -/
def State.getX (s : State) (r : Reg) : Word := if r = 0 then 0 else s.cfg.xlen.norm (s.x.get r.toFin)

/-- Writes the low XLEN bits of `v` to `x[r]`; a write to `x0` is discarded (10_state.md rule R21). -/
def State.setX (s : State) (r : Reg) (v : Word) : State :=
  { s with x := if r = 0 then s.x else s.x.set r.toNat (s.cfg.xlen.norm v) r.isLt }

/-- `x[r]` as a two's-complement number of 64 bits. -/
def State.getSx (s : State) (r : Reg) : Word := s.cfg.xlen.sx (s.getX r)

/-- `x[r][31:0]`, the operand of the word instructions (41_rv64i.md rule R302). -/
def State.getW (s : State) (r : Reg) : BitVec 32 := (s.getX r).setWidth 32

/-- The address of the instruction in execution (10_state.md rule R25). -/
def State.getPc (s : State) : Word := s.cfg.xlen.norm s.pc

/-- The address `len` bytes on, modulo 2^XLEN (10_state.md rules R25, R27). -/
def State.pcPlus (s : State) (len : Word) : Word := s.cfg.xlen.norm (s.pc + len)

/-- An instruction of `len` bytes that is no taken control transfer completes: `pc` passes it, `instret` counts it
(10_state.md rule R25; 60_exceptions.md rule R760). -/
def State.retire (s : State) (len : Word) : State := { s with pc := s.pcPlus len, instret := s.instret + 1 }

/-- An instruction completes with `pc` at `target`. -/
def State.retireAt (s : State) (target : Word) : State := { s with pc := target, instret := s.instret + 1 }

/-- A shift amount from a register: its low 5 bits, or 6 with XLEN = 64 (40_rv32i.md rule R233). -/
def State.shiftX (s : State) (r : Reg) : Nat := (s.getX r).toNat % s.cfg.xlen.bits

/-- A shift amount of the word instructions: the low 5 bits of `x[r]` (41_rv64i.md rule R313). -/
def State.shiftW (s : State) (r : Reg) : Nat := (s.getX r).toNat % 32

/-! ## Floating-point registers -/

/-- FLEN is 64 (00_scope.md rule R9). -/
def State.flen64 (s : State) : Bool := s.cfg.ext.d

/-- All bits of `f[r]` that exist: 64, or 32 with FLEN = 32 (10_state.md rule R30). -/
def State.getF (s : State) (r : Reg) : Word :=
  if s.flen64 then s.f.get r.toFin else ((s.f.get r.toFin).setWidth 32).setWidth 64

/-- Writes the FLEN bits of `f[r]`. No f register is hard-wired (10_state.md rule R30). -/
def State.setF (s : State) (r : Reg) (v : Word) : State := { s with f := s.f.set r.toNat v r.isLt }

/-- `f[r][31:0]` with no check: what `fsw` and `fmv.x.w` copy (44_fd.md rule R403). -/
def State.getFRaw32 (s : State) (r : Reg) : BitVec 32 := (s.getF r).setWidth 32

/-- `f[r]` as a single-precision operand: a 64-bit register that is not NaN-boxed reads as the canonical quiet NaN
(10_state.md rule R31, 44_fd.md rule R403). -/
def State.getF32 (s : State) (r : Reg) : BitVec 32 :=
  if s.flen64 && (s.getF r).extractLsb' 32 32 != 0xffffffff#32 then 0x7fc00000#32 else s.getFRaw32 r

/-- `box`: a single-precision value as a register holds it (10_state.md rule R31, 44_fd.md rule R410). -/
def State.box (s : State) (v : BitVec 32) : Word := if s.flen64 then 0xffffffff#32 ++ v else v.setWidth 64

/-- Writes a single-precision value to `f[r]`. -/
def State.setF32 (s : State) (r : Reg) (v : BitVec 32) : State := s.setF r (s.box v)

/-! ## Immediates -/

/-- imm[31:12] of the U format, in place and sign-extended (40_rv32i.md rule R250). -/
def immU (x : Xlen) (imm : BitVec 20) : Word := x.sext (imm ++ 0#12)

/-- A branch or jump offset without its bit 0, sign-extended (30_encoding.md rule R164). -/
def offset {n : Nat} (x : Xlen) (off : BitVec n) : Word := x.sext (off ++ 0#1)

/-- An unsigned compressed offset stored without its low `k` bits (45_c.md rule R504). -/
def scaled {n : Nat} (uimm : BitVec n) (k : Nat) : Word := (uimm ++ 0#k).setWidth 64

/-- imm[9:4] of `c.addi16sp` (45_c.md rule R504). -/
def imm16sp (x : Xlen) (imm : BitVec 6) : Word := x.sext (imm ++ 0#4)

/-- imm[17:12] of `c.lui` (45_c.md rule R504). -/
def immCLui (x : Xlen) (imm : BitVec 6) : Word := x.sext (imm ++ 0#12)

/-- The effective address `x[r] + off` modulo 2^XLEN (20_memory.md rule R105). -/
def State.ea (s : State) (r : Reg) (off : Word) : Word := s.cfg.xlen.norm (s.getX r + off)

/-- The effective address with the sign-extended 12-bit offset of a load or store (20_memory.md rule R105). -/
def State.eaImm (s : State) (r : Reg) (imm : BitVec 12) : Word := s.ea r (s.cfg.xlen.sext imm)

/-- `x[r] + off` for a pc-relative target, modulo 2^XLEN (40_rv32i.md rules R261, R270). -/
def State.pcTarget (s : State) (off : Word) : Word := s.cfg.xlen.norm (s.pc + off)

/-- The stack pointer, `x2`, and the link register, `x1` (45_c.md rule R501). -/
def sp : Reg := 2
def ra : Reg := 1

/-- What a 32-bit value is in a register: sign-extended to XLEN (41_rv64i.md rule R302). -/
def State.sextW (s : State) (v : BitVec 32) : Word := s.cfg.xlen.sext v

/-- 1 or 0 (40_rv32i.md rule R234). -/
def ofFlag (b : Bool) : Word := if b then 1 else 0

end Sys2Proof.Machine
end

