-- ==== Sys2Proof/Machine/Ops.lean ====
section
/-!
DEFINITION. The operations that instructions share: bytes of memory, devices, physical memory protection, address
translation, the accesses built of them (20_memory.md), taking a trap and returning from one, choosing an interrupt
(60_exceptions.md), and what the environment does between instructions.
-/

namespace Sys2Proof.Machine

/-! ## Lists of numbered cells, strictly rising -/

/-- The value at a number, if it is listed. -/
def cellFind {α : Type} (k : Nat) : List (Nat × α) → Option α
  | [] => none
  | c :: cs => if k = c.1 then some c.2 else cellFind k cs

/-- Lists the value at a number. -/
def cellPut {α : Type} (k : Nat) (v : α) : List (Nat × α) → List (Nat × α)
  | [] => [(k, v)]
  | c :: cs => if k < c.1 then (k, v) :: c :: cs else if k = c.1 then (k, v) :: cs else c :: cellPut k v cs

/-- Lists nothing at a number. -/
def cellDrop {α : Type} (k : Nat) : List (Nat × α) → List (Nat × α)
  | [] => []
  | c :: cs => if k = c.1 then cellDrop k cs else c :: cellDrop k cs

/-- Every number of the list is above `lo`, and they rise strictly. -/
def risingFrom {α : Type} (lo : Nat) : List (Nat × α) → Bool
  | [] => true
  | c :: cs => decide (lo ≤ c.1) && risingFrom (c.1 + 1) cs

/-! ## Bytes of memory (20_memory.md rules R100 to R102) -/

/-- What an address that memory does not list reads as. DESIGN CHOICE, log 4. -/
def unlisted : Byte := 0

/-- The byte at a physical address. -/
def Memory.read (m : Memory) (a : Nat) : Byte := (cellFind a m).getD unlisted

/-- Memory with one byte written. -/
def Memory.write (m : Memory) (a : Nat) (b : Byte) : Memory := if b = unlisted then cellDrop a m else cellPut a b m

/-- The canonical form: addresses strictly rising, no entry equal to what an unlisted address reads as. -/
def Memory.wf (m : Memory) : Bool := risingFrom 0 m && m.all (fun c => c.2 != unlisted)

/-- `n` consecutive addresses. -/
def addrsFrom (a : Nat) : Nat → List Nat
  | 0 => []
  | n + 1 => a :: addrsFrom (a + 1) n

/-- The value of the bytes at a list of addresses, the first being the least significant (20_memory.md rule R101). -/
def Memory.readAt (m : Memory) : List Nat → Nat
  | [] => 0
  | a :: as => (m.read a).toNat + 256 * m.readAt as

/-- Memory with the low bytes of a value written to a list of addresses, the least significant to the first
(20_memory.md rule R101). -/
def Memory.writeAt (m : Memory) : List Nat → Nat → Memory
  | [], _ => m
  | a :: as, v => Memory.writeAt (m.write a (BitVec.ofNat 8 v)) as (v / 256)

/-- The stale view with the bytes that memory holds at these addresses added, where it has none yet. DESIGN CHOICE,
log 14. -/
def staleNote (m : Memory) : List Nat → List Host.Cell → List Host.Cell
  | [], st => st
  | a :: as, st => staleNote m as (if (cellFind a st).isSome then st else cellPut a (m.read a) st)

/-- The reservation after a write to these addresses: gone if one of them is reserved (43_a.md rule R365 item 3). Which
writes of the hart itself count, its AMOs and its page-table updates among them: log 18. -/
def keepReservation (r : Option Reservation) (as : List Nat) : Option Reservation :=
  match r with
  | none => none
  | some v => if as.any (fun a => decide (v.addr ≤ a) && decide (a < v.addr + v.size)) then none else some v

/-- The region of `MEMORY_MAP` that holds an address; of two the first counts (20_memory.md rule R113). -/
def regionOf (pa : Nat) : List Region → Option Region
  | [] => none
  | r :: rs => if r.base ≤ pa ∧ pa < r.base + r.size then some r else regionOf pa rs

/-- The class of an address (20_memory.md rule R113). -/
def kindOf (c : Config) (pa : Nat) : RegionKind := ((regionOf pa c.memoryMap).map Region.kind).getD .vacant

/-- `MEMORY_MAP` classes the address as a device's. The devices that the spec describes are found by `devReg` before
this is asked. -/
def onDevice (c : Config) (pa : Nat) : Bool :=
  match kindOf c pa with
  | .memory _ _ _ => false
  | .device _ _ => true
  | .vacant => false

/-- Memory with the low bytes of a value written to those of the addresses that are no device's. What a device does with
a byte is not the hart's to see: log 6. -/
def Memory.writeMain (c : Config) (m : Memory) : List Nat → Nat → Memory
  | [], _ => m
  | a :: as, v =>
    Memory.writeMain c (if onDevice c a then m else m.write a (BitVec.ofNat 8 v)) as (v / 256)

/-- Writes the bytes of a value to memory, low byte first. The bytes a fetch may still see instead are noted where the
implementation lets it (20_memory.md rule R147), and a reservation on one of the bytes is lost (43_a.md rule R365). -/
def State.storeBytes (s : State) (as : List Nat) (v : Nat) : State :=
  { s with
    mem := s.mem.writeMain s.cfg as v
    staleFetch := if s.cfg.fetchStale then staleNote s.mem as s.staleFetch else s.staleFetch
    reservation := keepReservation s.reservation as }

/-- The byte a fetch sees at a physical address (20_memory.md rule R147). -/
def State.fetchByte (s : State) (a : Nat) : Byte := (cellFind a s.staleFetch).getD (s.mem.read a)

/-! ## The memory-mapped registers (10_state.md rule R62; 60_exceptions.md rules R745 to R747) -/

/-- The register, or half of one, that an access of `n` bytes at `pa` names exactly: `mtime` and `mtimecmp` are accessed
by 4 or 8 bytes, `msip` by 4. Any other access to them is an access fault: DESIGN CHOICE, log 6. -/
def devReg (c : Config) (pa n : Nat) : Option DevReg :=
  if pa = c.mtimeAddr ∧ n = 8 then some .mtime
  else if pa = c.mtimeAddr ∧ n = 4 then some .mtimeLo
  else if pa = c.mtimeAddr + 4 ∧ n = 4 then some .mtimeHi
  else if pa = c.mtimecmpAddr ∧ n = 8 then some .mtimecmp
  else if pa = c.mtimecmpAddr ∧ n = 4 then some .mtimecmpLo
  else if pa = c.mtimecmpAddr + 4 ∧ n = 4 then some .mtimecmpHi
  else if pa = c.msipAddr ∧ n = 4 then some .msip
  else none

/-- The physical address is one of a memory-mapped register's. -/
def inDevice (c : Config) (pa : Nat) : Bool :=
  (decide (c.mtimeAddr ≤ pa) && decide (pa < c.mtimeAddr + 8)) ||
  (decide (c.mtimecmpAddr ≤ pa) && decide (pa < c.mtimecmpAddr + 8)) ||
  (decide (c.msipAddr ≤ pa) && decide (pa < c.msipAddr + 4))

/-- The value a memory-mapped register reads as; reading has no side effect (20_memory.md rule R113). -/
def State.devRead (s : State) : DevReg → Word
  | .mtime => s.mtime
  | .mtimeLo => (s.mtime.extractLsb' 0 32).setWidth 64
  | .mtimeHi => (s.mtime.extractLsb' 32 32).setWidth 64
  | .mtimecmp => s.mtimecmp
  | .mtimecmpLo => (s.mtimecmp.extractLsb' 0 32).setWidth 64
  | .mtimecmpHi => (s.mtimecmp.extractLsb' 32 32).setWidth 64
  | .msip => if s.msip then 1 else 0

/-- Writes a memory-mapped register; of `msip` only bit 0 is live (60_exceptions.md rule R747). -/
def State.devWrite (s : State) (r : DevReg) (v : Word) : State :=
  match r with
  | .mtime => { s with mtime := v }
  | .mtimeLo => { s with mtime := s.mtime.extractLsb' 32 32 ++ v.extractLsb' 0 32 }
  | .mtimeHi => { s with mtime := v.extractLsb' 0 32 ++ s.mtime.extractLsb' 0 32 }
  | .mtimecmp => { s with mtimecmp := v }
  | .mtimecmpLo => { s with mtimecmp := s.mtimecmp.extractLsb' 32 32 ++ v.extractLsb' 0 32 }
  | .mtimecmpHi => { s with mtimecmp := v.extractLsb' 0 32 ++ s.mtimecmp.extractLsb' 0 32 }
  | .msip => { s with msip := v.getLsbD 0 }

/-! ## Kinds of access (20_memory.md rule R110) -/

/-- The access reads data. -/
def Access.reads : Access → Bool
  | .fetch => false
  | .load => true
  | .store => false
  | .loadReserved => true
  | .storeConditional => false
  | .amo => true

/-- The access writes. -/
def Access.writes : Access → Bool
  | .fetch => false
  | .load => false
  | .store => true
  | .loadReserved => false
  | .storeConditional => true
  | .amo => true

/-- The access needs natural alignment whatever `MISALIGNED_OK` is (20_memory.md rule R109). -/
def Access.atomic : Access → Bool
  | .fetch => false
  | .load => false
  | .store => false
  | .loadReserved => true
  | .storeConditional => true
  | .amo => true

/-- The misaligned exception of the access; a fetch raises none of its own (20_memory.md rule R110). -/
def Access.misaligned : Access → Exc
  | .fetch => .instrMisaligned
  | .load => .loadMisaligned
  | .store => .storeMisaligned
  | .loadReserved => .loadMisaligned
  | .storeConditional => .storeMisaligned
  | .amo => .storeMisaligned

/-- The page fault of the access (20_memory.md rule R110). -/
def Access.pageFault : Access → Exc
  | .fetch => .instrPageFault
  | .load => .loadPageFault
  | .store => .storePageFault
  | .loadReserved => .loadPageFault
  | .storeConditional => .storePageFault
  | .amo => .storePageFault

/-- The access fault of the access (20_memory.md rule R110). -/
def Access.accessFault : Access → Exc
  | .fetch => .instrAccessFault
  | .load => .loadAccessFault
  | .store => .storeAccessFault
  | .loadReserved => .loadAccessFault
  | .storeConditional => .storeAccessFault
  | .amo => .storeAccessFault

/-- Whether permissions to read, write and execute let the access go on; an AMO needs both to read and to write
(20_memory.md rules R113, R123). -/
def Access.granted (t : Access) (r w x : Bool) : Bool :=
  match t with
  | .fetch => x
  | .load => r
  | .store => w
  | .loadReserved => r
  | .storeConditional => w
  | .amo => r && w

/-! ## Physical checks (20_memory.md rules R113, R120 to R128) -/

/-- The address supports the access: main memory and a device as their region says, a device no fetch, a vacant address
nothing (20_memory.md rule R113). -/
def regionSupports (c : Config) (t : Access) (pa : Nat) : Bool :=
  match kindOf c pa with
  | .memory r w x => t.granted r w x
  | .device r w => t.granted r w false
  | .vacant => false

/-- `MEMORY_MAP` lets the access go on: every byte supports it, or the access is a load, store or atomic of exactly a
memory-mapped register (20_memory.md rule R113). -/
def mapOk (c : Config) (t : Access) (pa n : Nat) : Bool :=
  if (addrsFrom pa n).any (inDevice c) then (t.reads || t.writes) && (devReg c pa n).isSome
  else (addrsFrom pa n).all (regionSupports c t)

/-- A byte is one of a device's, described or not: no page table can lie there (20_memory.md rule R113). -/
def deviceAt (c : Config) (pa : Nat) : Bool := inDevice c pa || onDevice c pa

/-- `pmpcfg` byte i (10_state.md rule R57); 0 where there is none. -/
def State.pmpCfgAt (s : State) (i : Nat) : BitVec 8 := (s.pmpcfg[i]?).getD 0

/-- `pmpaddr[i]` as a number. -/
def State.pmpAddrAt (s : State) (i : Nat) : Nat := (s.cfg.xlen.norm ((s.pmpaddr[i]?).getD 0)).toNat

/-- The lower bound of PMP entry j, in units of four bytes (20_memory.md rule R125). -/
def State.pmpLo (s : State) (j : Nat) : Nat := if j = 0 then 0 else s.pmpAddrAt (j - 1)

/-- The byte's address is in the range of PMP entry j (20_memory.md rule R125). -/
def State.pmpIn (s : State) (j b : Nat) : Bool :=
  decide (s.pmpLo j ≤ b / 4) && decide (b / 4 < s.pmpAddrAt j)

/-- The PMP check over the entries listed, in order (20_memory.md rule R128). -/
def State.pmpScan (s : State) (pa n : Nat) (t : Access) (p : Priv) : List Nat → Bool
  | [] => p == .m || s.cfg.pmpEntries == 0
  | j :: js =>
    let cf := s.pmpCfgAt j
    let bs := addrsFrom pa n
    if cf.extractLsb' 3 2 = 0b01#2 ∧ bs.any (s.pmpIn j) then
      bs.all (s.pmpIn j) &&
        ((p == .m && !cf.getLsbD 7) || t.granted (cf.getLsbD 0) (cf.getLsbD 1) (cf.getLsbD 2))
    else s.pmpScan pa n t p js

/-- The PMP check of an access of `n` bytes at `pa` made with privilege `p` (20_memory.md rule R128). -/
def State.pmpOk (s : State) (pa n : Nat) (t : Access) (p : Priv) : Bool :=
  s.pmpScan pa n t p (List.range s.cfg.pmpEntries)

/-- Both physical checks; failing either is the access fault of the access (20_memory.md rules R113, R126). -/
def State.physOk (s : State) (pa n : Nat) (t : Access) (p : Priv) : Bool :=
  s.pmpOk pa n t p && mapOk s.cfg t pa n

/-! ## Address translation (20_memory.md rules R130 to R141) -/

/-- PTESIZE (20_memory.md rule R135). -/
def pteSize : Xlen → Nat
  | .rv32 => 4
  | .rv64 => 8

/-- The bits of one virtual page number: Sv32 has 10, Sv39 has 9 (20_memory.md rule R131). -/
def vpnBits : Xlen → Nat
  | .rv32 => 10
  | .rv64 => 9

/-- LEVELS − 1 (20_memory.md rule R135). -/
def topLevel : Xlen → Nat
  | .rv32 => 1
  | .rv64 => 2

/-- The size in bytes of a page found at level i: a base page at level 0, larger ones above. -/
def pageBytes (x : Xlen) (i : Nat) : Nat := 2 ^ (12 + vpnBits x * i)

/-- `va.vpn[i]` (20_memory.md rule R131). -/
def vpn (x : Xlen) (va : Word) (i : Nat) : Nat := va.toNat / pageBytes x i % 2 ^ vpnBits x

/-- `pte.ppn` (20_memory.md rules R132, R133). -/
def ptePpn (x : Xlen) (pte : Word) : Nat :=
  match x with
  | .rv32 => (pte.extractLsb' 10 22).toNat
  | .rv64 => (pte.extractLsb' 10 44).toNat

def pteV (pte : Word) : Bool := pte.getLsbD 0
def pteR (pte : Word) : Bool := pte.getLsbD 1
def pteW (pte : Word) : Bool := pte.getLsbD 2
def pteX (pte : Word) : Bool := pte.getLsbD 3
def pteU (pte : Word) : Bool := pte.getLsbD 4
def pteG (pte : Word) : Bool := pte.getLsbD 5
def pteA (pte : Word) : Bool := pte.getLsbD 6
def pteD (pte : Word) : Bool := pte.getLsbD 7

/-- `satp.MODE` (10_state.md rule R61). -/
def satpMode (x : Xlen) (v : Word) : Nat :=
  match x with
  | .rv32 => (v.extractLsb' 31 1).toNat
  | .rv64 => (v.extractLsb' 60 4).toNat

/-- `satp.ASID` (10_state.md rule R61). -/
def satpAsid (x : Xlen) (v : Word) : Nat :=
  match x with
  | .rv32 => (v.extractLsb' 22 9).toNat
  | .rv64 => (v.extractLsb' 44 16).toNat

/-- `satp.PPN` (10_state.md rule R61). -/
def satpPpn (x : Xlen) (v : Word) : Nat :=
  match x with
  | .rv32 => (v.extractLsb' 0 22).toNat
  | .rv64 => (v.extractLsb' 0 44).toNat

/-- The access is translated: paging is on, and it is made with privilege S or U (20_memory.md rule R130). -/
def State.translated (s : State) (p : Priv) : Bool :=
  s.cfg.modes.hasS && p != .m && satpMode s.cfg.xlen s.satp != 0

/-- Sv39: bits 63 to 39 of the address are copies of bit 38 (20_memory.md rule R131). -/
def canonical (x : Xlen) (va : Word) : Bool :=
  match x with
  | .rv32 => true
  | .rv64 => (va.extractLsb' 0 39).signExtend 64 == va

/-- Reads a page-table entry, checked as a load by S-mode; none where the check fails. A table in a device region is
refused (20_memory.md rules R113, R127). -/
def State.pteRead (s : State) (pa : Nat) : Option Word :=
  let n := pteSize s.cfg.xlen
  if s.pmpOk pa n .load .s && !(addrsFrom pa n).any (deviceAt s.cfg) && mapOk s.cfg .load pa n then
    some (BitVec.ofNat 64 (s.mem.readAt (addrsFrom pa n)))
  else none

/-- Writes a page-table entry, checked as a store by S-mode (20_memory.md rules R127, R137). It breaks a reservation
as a store does: DEDUCED, log 18. -/
def State.pteWrite (s : State) (pa : Nat) (pte : Word) : Option State :=
  let n := pteSize s.cfg.xlen
  if s.pmpOk pa n .store .s && !(addrsFrom pa n).any (deviceAt s.cfg) && mapOk s.cfg .store pa n then
    some (s.storeBytes (addrsFrom pa n) pte.toNat)
  else none

/-- A leaf page-table entry that a walk found, its level and its physical address. -/
abbrev Leaf := Word × Nat × Nat

/-- Steps 2 to 4 of the walk, from level `i` and the table at `a` (20_memory.md rule R135): the leaf, or the exception
of the access. -/
def State.walk (s : State) (t : Access) (va : Word) : Nat → Nat → Except Trap Leaf
  | i, a =>
    let pa := a + vpn s.cfg.xlen va i * pteSize s.cfg.xlen
    match s.pteRead pa with
    | none => .error ⟨t.accessFault, va⟩
    | some pte =>
      if !pteV pte || (!pteR pte && pteW pte) then .error ⟨t.pageFault, va⟩
      else if pteR pte || pteX pte then .ok (pte, i, pa)
      else match i with
        | 0 => .error ⟨t.pageFault, va⟩
        | i' + 1 => s.walk t va i' (ptePpn s.cfg.xlen pte * 4096)

/-- The permission test of a leaf (20_memory.md rule R136); an AMO counts as a store. -/
def State.leafAllowed (s : State) (pte : Word) (t : Access) (p : Priv) : Bool :=
  (match t with
    | .fetch => pteX pte
    | .load => pteR pte || (s.mstatus.mxr && pteX pte)
    | .loadReserved => pteR pte || (s.mstatus.mxr && pteX pte)
    | .store => pteW pte
    | .storeConditional => pteW pte
    | .amo => pteW pte) &&
  (match p with
    | .u => pteU pte
    | .s => !pteU pte || (s.mstatus.sum && t != .fetch)
    | .m => true)

/-- The accessed bit, or for a write the dirty bit, has to be set (20_memory.md rule R135 step 7). -/
def leafStale (pte : Word) (t : Access) : Bool := !pteA pte || (t.writes && !pteD pte)

/-- The physical address of step 8 (20_memory.md rules R135, R138). -/
def leafAddr (x : Xlen) (pte : Word) (i : Nat) (va : Word) : Nat :=
  ptePpn x pte / 2 ^ (vpnBits x * i) * pageBytes x i + va.toNat % pageBytes x i

/-- Caches a translation where the implementation has a cache (20_memory.md rule R141). What is cached and for how
long is DESIGN CHOICE, log 14. -/
def State.cacheLeaf (s : State) (va pte : Word) (i : Nat) : State :=
  { s with
    tlb := if s.cfg.tlbCaches then
        { page := BitVec.ofNat 64 (va.toNat / pageBytes s.cfg.xlen i * pageBytes s.cfg.xlen i), level := i,
          asid := satpAsid s.cfg.xlen s.satp, pte := pte } :: s.tlb
      else s.tlb }

/-- The leaf with A set, and D for a write (20_memory.md rule R135 step 7). -/
def leafTouched (pte : Word) (t : Access) : Word := pte ||| (if t.writes then 0xc0#64 else 0x40#64)

/-- Steps 5 and 6: the page fault of the access, or nothing (20_memory.md rule R135). -/
def State.leafOk (s : State) (pte : Word) (i : Nat) (t : Access) (p : Priv) : Bool :=
  s.leafAllowed pte t p && ptePpn s.cfg.xlen pte % 2 ^ (vpnBits s.cfg.xlen * i) == 0

/-- Steps 5 to 8 for a leaf that a walk found (20_memory.md rules R135 to R138). -/
def State.useLeaf (s : State) (t : Access) (p : Priv) (va : Word) (leaf : Leaf) : Except Trap (State × Nat) :=
  match leaf with
  | (pte, i, at_) =>
    if !s.leafOk pte i t p then .error ⟨t.pageFault, va⟩
    else if !leafStale pte t then .ok (s.cacheLeaf va pte i, leafAddr s.cfg.xlen pte i va)
    else if !s.cfg.pteAdHw then .error ⟨t.pageFault, va⟩
    else match s.pteWrite at_ (leafTouched pte t) with
      | none => .error ⟨t.accessFault, va⟩
      | some s' => .ok (s'.cacheLeaf va (leafTouched pte t) i, leafAddr s.cfg.xlen pte i va)

/-- A cached translation covers the address in the current address space (20_memory.md rules R134, R141). -/
def State.tlbCovers (s : State) (va : Word) (e : TlbEntry) : Bool :=
  va.toNat / pageBytes s.cfg.xlen e.level == e.page.toNat / pageBytes s.cfg.xlen e.level &&
  (pteG e.pte || e.asid == satpAsid s.cfg.xlen s.satp)

/-- The first cached translation that covers the address and asks for no update of its A and D bits. DESIGN CHOICE,
log 14. -/
def State.tlbFind (s : State) (t : Access) (va : Word) : Option TlbEntry :=
  s.tlb.find? (fun e => s.tlbCovers va e && !leafStale e.pte t)

/-- The physical address of a virtual address for an access of kind `t` made with privilege `p`, with the state after it
(a walk may set A and D bits and fill the cache), or the exception (20_memory.md rules R130 to R141). -/
def State.translate (s : State) (p : Priv) (t : Access) (va : Word) : Except Trap (State × Nat) :=
  if !s.translated p then .ok (s, va.toNat)
  else if !canonical s.cfg.xlen va then .error ⟨t.pageFault, va⟩
  else match s.tlbFind t va with
    | some e =>
      if s.leafOk e.pte e.level t p then .ok (s, leafAddr s.cfg.xlen e.pte e.level va) else .error ⟨t.pageFault, va⟩
    | none =>
      match s.walk t va (topLevel s.cfg.xlen) (satpPpn s.cfg.xlen s.satp * 4096) with
      | .error e => .error e
      | .ok leaf => s.useLeaf t p va leaf

/-! ## Accesses (20_memory.md rules R101, R107 to R111) -/

/-- Translates and checks `n` bytes that lie together. -/
def State.locateOne (s : State) (t : Access) (a : Word) (n : Nat) : Except Trap (State × Nat) :=
  match s.translate s.priv t a with
  | .error e => .error e
  | .ok (s', pa) => if s'.physOk pa n t s.priv then .ok (s', pa) else .error ⟨t.accessFault, a⟩

/-- Translates and checks `k` bytes one by one, in ascending order (20_memory.md rule R108); addresses wrap modulo
2^XLEN. -/
def State.locateBytes (s : State) (t : Access) : Word → Nat → Except Trap (State × List Nat)
  | _, 0 => .ok (s, [])
  | a, k + 1 =>
    match s.locateOne t a 1 with
    | .error e => .error e
    | .ok (s', pa) =>
      match s'.locateBytes t (s.cfg.xlen.norm (a + 1)) k with
      | .error e => .error e
      | .ok (s'', pas) => .ok (s'', pa :: pas)

/-- Where the `n` bytes of a data access at virtual address `a` lie, after every check, or the exception: alignment,
then translation, then the physical checks (20_memory.md rules R101, R107 to R110). -/
def State.locate (s : State) (t : Access) (a : Word) (n : Nat) : Except Trap (State × Place) :=
  if a.toNat % n = 0 then
    match s.locateOne t a n with
    | .error e => .error e
    | .ok (s', pa) => .ok (s', .whole pa)
  else if t.atomic || !s.cfg.misalignedOk then .error ⟨t.misaligned, a⟩
  else match s.locateBytes t a n with
    | .error e => .error e
    | .ok (s', pas) => .ok (s', .bytes pas)

/-- The physical addresses of a place of `n` bytes. -/
def Place.addrs (n : Nat) : Place → List Nat
  | .whole pa => addrsFrom pa n
  | .bytes pas => pas

/-- The memory-mapped register at a place. -/
def Place.dev (c : Config) (n : Nat) : Place → Option DevReg
  | .whole pa => devReg c pa n
  | .bytes _ => none

/-- The byte a load reads at a physical address: memory's, or for a device that the spec does not describe a free value,
logs 6 and 10. -/
def State.byteAt (s : State) (a : Nat) : Byte :=
  if onDevice s.cfg a then Config.freeDeviceByte s.free a else s.mem.read a

/-- The value of the bytes a load reads, the first address giving the least significant (20_memory.md rule R101). -/
def State.readBytes (s : State) : List Nat → Nat
  | [] => 0
  | a :: as => (s.byteAt a).toNat + 256 * s.readBytes as

/-- The value of `n` bytes at a place that was checked. -/
def State.readPlace (s : State) (p : Place) (n : Nat) : Word :=
  match p.dev s.cfg n with
  | some r => s.devRead r
  | none => BitVec.ofNat 64 (s.readBytes (p.addrs n))

/-- The state after `readPlace`: the draw of a device's bytes is counted, so that the next load draws afresh. Log 10. -/
def State.readDone (s : State) (p : Place) (n : Nat) : State :=
  { s with
    free := if (p.dev s.cfg n).isNone && (p.addrs n).any (onDevice s.cfg) then s.free + 1 else s.free }

/-- Writes the low `n` bytes of a value at a place that was checked. A reservation on one of the bytes is lost
(43_a.md rule R365). -/
def State.writePlace (s : State) (p : Place) (n : Nat) (v : Word) : State :=
  match p.dev s.cfg n with
  | some r => { s.devWrite r v with reservation := keepReservation s.reservation (p.addrs n) }
  | none => s.storeBytes (p.addrs n) v.toNat

/-- `MemRead(a, n)`, with the state after it (20_memory.md rule R101). -/
def State.memRead (s : State) (a : Word) (n : Nat) : Except Trap (State × Word) :=
  match s.locate .load a n with
  | .error e => .error e
  | .ok (s', p) => .ok (s'.readDone p n, s'.readPlace p n)

/-- `MemWrite(a, n, v)` (20_memory.md rule R101). -/
def State.memWrite (s : State) (a : Word) (n : Nat) (v : Word) : Except Trap State :=
  match s.locate .store a n with
  | .error e => .error e
  | .ok (s', p) => .ok (s'.writePlace p n v)

/-! ## Fetch (20_memory.md rules R103, R111) -/

/-- The 16-bit parcel at an address, with the state after its translation. -/
def State.fetchParcel (s : State) (a : Word) : Except Trap (State × BitVec 16) :=
  match s.translate s.priv .fetch a with
  | .error e => .error e
  | .ok (s', pa) =>
    if s'.physOk pa 2 .fetch s.priv then .ok (s', parcelOf (s'.fetchByte pa) (s'.fetchByte (pa + 1)))
    else .error ⟨.instrAccessFault, a⟩

/-- The bits of the instruction at `pc`: one parcel, or two when the first ends in 11 (20_memory.md rule R103). -/
def State.fetch (s : State) : Except Trap (State × Bits) :=
  match s.fetchParcel s.getPc with
  | .error e => .error e
  | .ok (s', lo) =>
    if lo.extractLsb' 0 2 = 0b11#2 then
      match s'.fetchParcel (s.pcPlus 2) with
      | .error e => .error e
      | .ok (s'', hi) => .ok (s'', .long (hi ++ lo))
    else .ok (s', .short lo)

/-! ## Traps (60_exceptions.md rules R701, R702, R720 to R723) -/

/-- The code of a synchronous exception (60_exceptions.md rule R701). -/
def Exc.code : Exc → Nat
  | .instrMisaligned => 0
  | .instrAccessFault => 1
  | .illegalInstruction => 2
  | .breakpoint => 3
  | .loadMisaligned => 4
  | .loadAccessFault => 5
  | .storeMisaligned => 6
  | .storeAccessFault => 7
  | .ecallU => 8
  | .ecallS => 9
  | .ecallM => 11
  | .instrPageFault => 12
  | .loadPageFault => 13
  | .storePageFault => 15

/-- The code of an interrupt, which is also its bit in `mip`, `mie` and `mideleg` (60_exceptions.md rule R702). -/
def Intr.code : Intr → Nat
  | .supervisorSoftware => 1
  | .machineSoftware => 3
  | .supervisorTimer => 5
  | .machineTimer => 7
  | .supervisorExternal => 9
  | .machineExternal => 11

/-- The value of `mcause` or `scause` (60_exceptions.md rules R701, R702). -/
def causeWord (x : Xlen) (isInt : Bool) (code : Nat) : Word :=
  BitVec.ofNat 64 ((if isInt then 2 ^ (x.bits - 1) else 0) + code)

/-- The trap vector that `mtvec` or `stvec` gives (60_exceptions.md rule R723). -/
def trapVector (x : Xlen) (tvec : Word) (isInt : Bool) (code : Nat) : Word :=
  x.norm ((tvec &&& ~~~3#64) +
    (if isInt && tvec.extractLsb' 0 2 == 0b01#2 then BitVec.ofNat 64 (4 * code) else 0))

/-- Supervisor mode handles the trap: it is implemented, the trap does not come from machine mode, and the delegation
bit is set (60_exceptions.md rule R722). -/
def State.delegated (s : State) (isInt : Bool) (code : Nat) : Bool :=
  s.cfg.modes.hasS && s.priv != .m && (if isInt then s.mideleg else s.medeleg).getLsbD code

/-- Taking a trap, all of it (60_exceptions.md rules R720 to R723): the pc and the cause and the value are saved, the
interrupt enable and the mode are stacked and changed, `pc` goes to the vector. -/
def State.takeTrap (s : State) (isInt : Bool) (code : Nat) (epc tval : Word) : State :=
  if s.delegated isInt code then
    { s with
      sepc := epc
      scause := causeWord s.cfg.xlen isInt code
      stval := s.cfg.xlen.norm tval
      mstatus := { s.mstatus with spie := s.mstatus.sie, sie := false, spp := s.priv == .s }
      priv := .s
      pc := trapVector s.cfg.xlen s.stvec isInt code }
  else
    { s with
      mepc := epc
      mcause := causeWord s.cfg.xlen isInt code
      mtval := s.cfg.xlen.norm tval
      mstatus := { s.mstatus with mpie := s.mstatus.mie, mie := false, mpp := s.priv }
      priv := .m
      pc := trapVector s.cfg.xlen s.mtvec isInt code }

/-- `raise`: the instruction in execution takes a synchronous exception (60_exceptions.md rule R720). -/
def State.raise (s : State) (e : Trap) : State := s.takeTrap false e.exc.code s.getPc e.tval

/-- An instruction that the mode or an operand makes illegal: the trap value is the instruction's bits
(60_exceptions.md rules R703, R711). -/
def State.illegal (s : State) (i : Instr) : State := s.raise ⟨.illegalInstruction, (encode i).toWord⟩

/-- The outcome of an instruction that either completes or raises an exception, in which case nothing it did stands
(60_exceptions.md rule R700; log 12). -/
def State.finish (s : State) (r : Except Trap State) : Result :=
  match r with
  | .ok s' => .next s'
  | .error e => .next (s.raise e)

/-- `mepc` or `sepc` as it reads: bit 0 clear, and bit 1 without C (10_state.md rule R50). -/
def State.epcOf (s : State) (v : Word) : Word := s.cfg.xlen.norm (v &&& s.cfg.ialignMask)

/-- MPP as it reads: hard-wired to M where only M-mode is implemented (10_state.md rule R48). -/
def State.mppField (s : State) : Priv := if s.cfg.modes.hasU then s.mstatus.mpp else .m

/-- Returning from a trap with `mret` (47_privileged.md rule R621), the privilege check apart. -/
def State.returnM (s : State) : State :=
  { s with
    pc := s.epcOf s.mepc
    priv := s.mppField
    mstatus := { s.mstatus with mie := s.mstatus.mpie, mpie := true, mpp := if s.cfg.modes.hasU then .u else .m }
    instret := s.instret + 1 }

/-- Returning from a trap with `sret` (47_privileged.md rule R622), the privilege check apart. -/
def State.returnS (s : State) : State :=
  { s with
    pc := s.epcOf s.sepc
    priv := if s.mstatus.spp then .s else .u
    mstatus := { s.mstatus with sie := s.mstatus.spie, spie := true, spp := false }
    instret := s.instret + 1 }

/-! ## Interrupts (10_state.md rule R52; 60_exceptions.md rules R706, R730, R731) -/

/-- An interrupt's bit of `mip` as it reads: MTIP and MSIP follow the memory-mapped registers, MEIP its line, SEIP its
line or the software bit; the supervisor bits need S-mode (60_exceptions.md rules R746 to R748). -/
def State.pending (s : State) : Intr → Bool
  | .supervisorSoftware => s.cfg.modes.hasS && s.ssip
  | .machineSoftware => s.msip
  | .supervisorTimer => s.cfg.modes.hasS && s.stip
  | .machineTimer => s.mtimecmp.ult s.mtime
  | .supervisorExternal => s.cfg.modes.hasS && (s.seip || s.seipLine)
  | .machineExternal => s.meipLine

/-- The interrupts in order of priority: the order of the codes that 60_exceptions.md rule R706 lists and rule R730
follows. The rule's words, machine-mode destinations before supervisor-mode ones, differ from its list when a supervisor
interrupt is delegated and another, later in the list, is not. DESIGN CHOICE, log 25. -/
def intrPriority : List Intr :=
  [.machineExternal, .machineSoftware, .machineTimer, .supervisorExternal, .supervisorSoftware, .supervisorTimer]

/-- A bit in the place of each interrupt for which `b` holds. -/
def intrBits (b : Intr → Bool) : Word :=
  intrPriority.foldl (fun w i => if b i then w ||| (1#64 <<< i.code) else w) 0

/-- `mip` (10_state.md rule R52). -/
def State.mip (s : State) : Word := intrBits s.pending

/-- The bits of `mie` that exist: the machine's, and with S-mode the supervisor's (10_state.md rule R52). -/
def mieMask (c : Config) : Word := if c.modes.hasS then 0xaaa#64 else 0x888#64

/-- `mie` as it reads. -/
def State.mieBits (s : State) : Word := s.mie &&& mieMask s.cfg

/-- The interrupt is pending and its own enable bit is set. -/
def State.pendingEnabled (s : State) (i : Intr) : Bool := s.pending i && s.mieBits.getLsbD i.code

/-- The interrupt is destined for supervisor mode (60_exceptions.md rule R730). -/
def State.toS (s : State) (i : Intr) : Bool := s.cfg.modes.hasS && s.mideleg.getLsbD i.code

/-- The mode's global enable lets the interrupt be taken (60_exceptions.md rules R730, R731). -/
def State.globallyEnabled (s : State) (i : Intr) : Bool :=
  if s.toS i then s.priv == .u || (s.priv == .s && s.mstatus.sie)
  else s.priv != .m || s.mstatus.mie

/-- The interrupt that the check before an instruction takes, if any (60_exceptions.md rule R730): the first of
`intrPriority`, wherever it goes. DESIGN CHOICE, log 25. -/
def State.nextInterrupt (s : State) : Option Intr :=
  intrPriority.find? (fun i => s.pendingEnabled i && s.globallyEnabled i)

/-- Takes an interrupt: `epc` is the instruction that would have executed next, the trap value is 0
(60_exceptions.md rules R703, R720, R721). -/
def State.interrupt (s : State) (i : Intr) : State := s.takeTrap true i.code s.getPc 0

/-- Some enabled interrupt is pending, whatever the global enables: what ends a `wfi` (47_privileged.md rule R623). -/
def State.wakes (s : State) : Bool := intrPriority.any s.pendingEnabled

/-! ## The environment (60_exceptions.md rules R745, R747, R748, R760) -/

/-- The bytes other agents write land in memory; one that is reserved breaks the reservation (43_a.md rule R365). -/
def State.otherWrites (s : State) : List Host.Cell → State
  | [] => s
  | c :: cs =>
    State.otherWrites
      { s with mem := s.mem.write c.1 c.2, reservation := keepReservation s.reservation [c.1] } cs

/-- One input of the environment. Another hart's store to `msip` breaks a reservation on it (43_a.md rule R365). -/
def State.applyInput (s : State) (i : Input) : State :=
  let s' := s.otherWrites i.writes
  { s' with
    reservation :=
      if i.msip.isSome then keepReservation s'.reservation (addrsFrom s.cfg.msipAddr 4) else s'.reservation
    cycle := s'.cycle + 1 + i.extraCycles
    mtime := s'.mtime + i.mtimeDelta
    meipLine := i.meip
    seipLine := i.seip
    msip := i.msip.getD s'.msip }

/-- What happens between one instruction, or trap taken, and the next: `cycle` counts it, `mtime` advances, and the next
input of the environment lands; with none left the lines stay as they are (60_exceptions.md rules R745, R748, R760). -/
def State.tick (s : State) : State :=
  match s.inputs with
  | [] => { s with cycle := s.cycle + 1, mtime := s.mtime + s.cfg.mtimeTick }
  | i :: is => { s.applyInput i with inputs := is }

end Sys2Proof.Machine
end

