-- ==== Sys2Proof/Machine/Cycle.lean ====
section
/-!
DEFINITION. What one step does before an instruction executes: a hart that waits in `wfi` goes on waiting or wakes, an
interrupt is taken, or the instruction at `pc` is fetched and decoded (47_privileged.md rule R623; 60_exceptions.md rules
R705, R730; 30_encoding.md rule R172). And where a word has to lie to be the next instruction.
-/

namespace Sys2Proof.Machine

/-- What a step comes to before the environment's turn: a state, or an instruction to execute in a state. -/
inductive Front where
  /-- No instruction executes: the hart waits, `wfi` completed, or a trap was taken. -/
  | settled (s : State)
  /-- The instruction fetched, and the state after the fetch. -/
  | execute (s : State) (i : Instr)
  deriving DecidableEq, Repr

/-- A hart that waits in `wfi`: the wait ends when an enabled interrupt is pending, and `wfi` completes
(47_privileged.md rule R623; 60_exceptions.md rule R735). -/
def State.waitOn (s : State) : State := if s.wakes then { s with waiting := false }.retire 4 else s

/-- Fetch and decode: a fault in fetching is taken before an illegal instruction (60_exceptions.md rule R705), whose
trap value is the bits fetched (rule R703; log 17). -/
def State.fetchDecode (s : State) : Front :=
  match s.fetch with
  | .error e => .settled (s.raise e)
  | .ok (s', b) =>
    match decode s.cfg b with
    | .error _ => .settled (s'.raise ⟨.illegalInstruction, b.toWord⟩)
    | .ok i => .execute s' i

/-- The step up to execution: the wait, then the interrupt check, then fetch and decode (60_exceptions.md rule R730). -/
def State.front (s : State) : Front :=
  if s.waiting then .settled s.waitOn
  else
    match s.nextInterrupt with
    | some i => .settled (s.interrupt i)
    | none => s.fetchDecode

/-- The environment's turn after an instruction (60_exceptions.md rule R745). -/
def ticked : Result → Result
  | .next s => .next s.tick
  | .fault r => .fault r
  | .refused r => .refused r

/-! ## Placing an instruction (log 11) -/

/-- The physical address a fetch at `a` reads; the address itself where translation fails. -/
def State.fetchAddr (s : State) (a : Word) : Nat :=
  match s.translate s.priv .fetch a with
  | .error _ => a.toNat
  | .ok (_, pa) => pa

/-- The bytes of one parcel put where a fetch at `a` reads them. -/
def State.placeParcel (s : State) (a : Word) (b0 b1 : Byte) : State :=
  let pa := s.fetchAddr a
  { s with
    mem := (s.mem.write pa b0).write (pa + 1) b1
    staleFetch := cellDrop (pa + 1) (cellDrop pa s.staleFetch) }

/-- The four bytes of an instruction put where the next step fetches. -/
def State.placeBytes (s : State) (bs : List Byte) : State :=
  match bs with
  | [b0, b1, b2, b3] => (s.placeParcel s.getPc b0 b1).placeParcel (s.pcPlus 2) b2 b3
  | _ => s

/-- The configuration under which these bytes are an instruction: the state's own, or the same with XLEN = 32. -/
def State.configFor (s : State) (bs : List Byte) : Config :=
  match decodeUnder bs [s.cfg, { s.cfg with xlen := .rv32 }] with
  | some (c, _) => c
  | none => s.cfg

end Sys2Proof.Machine
end

