-- ==== Sys2Proof/Machine/Flags.lean ====
section
/-!
DEFINITION. The floating-point flags and the rounding mode (10_state.md rules R33, R34; 44_fd.md rules R404, R405). There
are no integer flags (10_state.md rule R29).
-/

namespace Sys2Proof.Machine

/-! ## The accrued exception flags, in their places in `fflags` (10_state.md rule R33) -/

/-- Invalid operation. -/
def flagNV : BitVec 5 := 0b10000#5
/-- Divide by zero. -/
def flagDZ : BitVec 5 := 0b01000#5
/-- Overflow. -/
def flagOF : BitVec 5 := 0b00100#5
/-- Underflow. -/
def flagUF : BitVec 5 := 0b00010#5
/-- Inexact. -/
def flagNX : BitVec 5 := 0b00001#5

/-- A flag or nothing. -/
def flagIf (b : Bool) (fl : BitVec 5) : BitVec 5 := if b then fl else 0

/-- Sets the flags an instruction raises and clears none (10_state.md rule R34, 44_fd.md rule R405). -/
def State.accrue (s : State) (fl : BitVec 5) : State := { s with fcsr := s.fcsr ||| fl.setWidth 8 }

/-- `fflags` (10_state.md rule R33). -/
def State.fflags (s : State) : BitVec 5 := s.fcsr.extractLsb' 0 5

/-- `frm` (10_state.md rule R33). -/
def State.frm (s : State) : BitVec 3 := s.fcsr.extractLsb' 5 3

/-- The rounding mode a 3-bit code names; 101, 110 and 111 name none (10_state.md rule R33). -/
def rmOfCode (c : BitVec 3) : Option Rm :=
  if c = 0b000#3 then some .rne
  else if c = 0b001#3 then some .rtz
  else if c = 0b010#3 then some .rdn
  else if c = 0b011#3 then some .rup
  else if c = 0b100#3 then some .rmm
  else none

/-- The rounding mode of an instruction: the one `rm` names, or with 111 the one `fcsr.frm` names; none when the value
is reserved (44_fd.md rule R404, 92_eei_decisions.md D25). -/
def State.roundingMode (s : State) (rm : BitVec 3) : Option Rm :=
  if rm = 0b111#3 then rmOfCode s.frm else rmOfCode rm

end Sys2Proof.Machine
end

