-- ==== Sys2Proof/Machine/Csr.lean ====
section
/-!
DEFINITION. The control and status registers: their numbers, who may use them, what each reads as, and what a write to
each changes (10_state.md rules R41 to R66), and the vector configuration that `vcfgd` holds (rules R64 to R66).
-/

namespace Sys2Proof.Machine

/-! ## The vector configuration (10_state.md rules R63 to R66) -/

/-- The value of the spec's one example: two registers of type F64 (10_state.md rule R66). -/
def vcfgTwoF64 : Word := BitVec.ofNat 64 (2 * 2 ^ 25)

/-- The `vtype` that a `vcfgd` value gives register r. The spec fixes the meaning of one value; every other is left to
the implementation: free function, log 10. -/
def vtypeOf (v : Word) (r : Nat) : BitVec 5 :=
  if v = vcfgTwoF64 then (if r < 2 then 0b01111#5 else 0) else Config.freeVtype v r

/-- Whether a `vcfgd` value enables predicate register r (10_state.md rule R66). -/
def vpOnOf (v : Word) (r : Nat) : Bool := if v = vcfgTwoF64 then false else Config.freePredicateOn v r

/-- Writes `vcfgd`: the type of every vector register and the enabling of the predicate registers change, and all their
contents become unspecified (46_v.md rules R574 item g, R576). The contents are drawn afresh: free value, log 10. -/
def State.setVcfgd (s : State) (v : Word) : State :=
  { s with
    vcfgd := s.cfg.xlen.norm v
    vtype := Vector.ofFn (fun r => vtypeOf (s.cfg.xlen.norm v) r.val)
    vpOn := Vector.ofFn (fun r => vpOnOf (s.cfg.xlen.norm v) r.val)
    vregs := Vector.replicate 32 []
    vp := Vector.replicate 8 []
    vfill := some s.free
    free := s.free + 1 }

/-! ## Numbers and existence (10_state.md rules R42 to R44) -/

/-- A CSR that only RV32 has (10_state.md rule R36). -/
def rv32Csr (c : Config) (r : Csr) : Option Csr :=
  match c.xlen with
  | .rv32 => some r
  | .rv64 => none

/-- A CSR that exists where a condition holds. -/
def csrIf (b : Bool) (r : Csr) : Option Csr := if b then some r else none

/-- `pmpcfg` k exists: some PMP entry it configures does, and in RV64 k is even (10_state.md rule R57). -/
def pmpcfgExists (c : Config) (k : Fin 4) : Bool :=
  match c.xlen with
  | .rv32 => decide (4 * k.val < c.pmpEntries)
  | .rv64 => k.val % 2 == 0 && decide (4 * k.val < c.pmpEntries)

/-- The CSR that a number names on this hart; none where it is not implemented (10_state.md rules R42 to R44). The
numbers are the standard's, as rule R42 lists them. -/
def csrOf (c : Config) (a : BitVec 12) : Option Csr :=
  if a = 0x001#12 then csrIf c.hasF .fflags
  else if a = 0x002#12 then csrIf c.hasF .frm
  else if a = 0x003#12 then csrIf c.hasF .fcsr
  else if a = 0xc00#12 then some .cycle
  else if a = 0xc01#12 then some .time
  else if a = 0xc02#12 then some .instret
  else if a = 0xc80#12 then rv32Csr c .cycleh
  else if a = 0xc81#12 then rv32Csr c .timeh
  else if a = 0xc82#12 then rv32Csr c .instreth
  else if a = 0x100#12 then csrIf c.modes.hasS .sstatus
  else if a = 0x104#12 then csrIf c.modes.hasS .sie
  else if a = 0x105#12 then csrIf c.modes.hasS .stvec
  else if a = 0x140#12 then csrIf c.modes.hasS .sscratch
  else if a = 0x141#12 then csrIf c.modes.hasS .sepc
  else if a = 0x142#12 then csrIf c.modes.hasS .scause
  else if a = 0x143#12 then csrIf c.modes.hasS .stval
  else if a = 0x144#12 then csrIf c.modes.hasS .sip
  else if a = 0x180#12 then csrIf c.modes.hasS .satp
  else if a = 0x300#12 then some .mstatus
  else if a = 0x302#12 then csrIf c.modes.hasS .medeleg
  else if a = 0x303#12 then csrIf c.modes.hasS .mideleg
  else if a = 0x304#12 then some .mie
  else if a = 0x305#12 then some .mtvec
  else if a = 0x340#12 then some .mscratch
  else if a = 0x341#12 then some .mepc
  else if a = 0x342#12 then some .mcause
  else if a = 0x343#12 then some .mtval
  else if a = 0x344#12 then some .mip
  else if a.extractLsb' 2 10 = 0x0e8#10 then
    csrIf (pmpcfgExists c (a.extractLsb' 0 2).toFin) (.pmpcfg (a.extractLsb' 0 2).toFin)
  else if a.extractLsb' 4 8 = 0x3b#8 then
    csrIf (decide ((a.extractLsb' 0 4).toNat < c.pmpEntries)) (.pmpaddr (a.extractLsb' 0 4).toFin)
  else if c.ext.v && c.vcfgdCsr == some a then some .vcfgd
  else none

/-- The two-bit code of a mode (10_state.md rule R28). -/
def Priv.code : Priv → BitVec 2
  | .u => 0b00#2
  | .s => 0b01#2
  | .m => 0b11#2

/-- The mode may use the CSR: bits 9:8 of the number are the lowest mode that may (10_state.md rules R42, R43). -/
def csrPrivOk (p : Priv) (a : BitVec 12) : Bool := (a.extractLsb' 8 2).ule p.code

/-- The CSR is read-only: bits 11:10 of the number are 11 (10_state.md rule R42). -/
def csrReadOnly (a : BitVec 12) : Bool := a.extractLsb' 10 2 == 0b11#2

/-! ## Reads -/

/-- A bit in a place. -/
def bitAt (b : Bool) (k : Nat) : Word := if b then 1#64 <<< k else 0

/-- FS: 3 where F is present, else 0 (10_state.md rule R47). -/
def fsField (c : Config) : Word := if c.hasF then 3#64 <<< 13 else 0

/-- SD: 1 exactly when FS or XS is 3; XS is hard-wired 0 here (10_state.md rule R47, log 13). -/
def sdField (c : Config) : Word := bitAt c.hasF (c.xlen.bits - 1)

/-- MXR, SUM, SPP, SPIE and SIE, which exist with S-mode only, in place (10_state.md rules R46 to R48). -/
def State.sFields (s : State) : Word :=
  if s.cfg.modes.hasS then
    bitAt s.mstatus.mxr 19 ||| bitAt s.mstatus.sum 18 ||| bitAt s.mstatus.spp 8 ||| bitAt s.mstatus.spie 5 |||
      bitAt s.mstatus.sie 1
  else 0

/-- `mstatus` as it reads (10_state.md rules R46, R47). -/
def State.mstatusWord (s : State) : Word :=
  sdField s.cfg ||| fsField s.cfg ||| s.sFields ||| (s.mppField.code.setWidth 64 <<< 11) ||| bitAt s.mstatus.mpie 7 |||
    bitAt s.mstatus.mie 3

/-- `sstatus` as it reads: the same storage without the machine's fields (10_state.md rule R59). -/
def State.sstatusWord (s : State) : Word := sdField s.cfg ||| fsField s.cfg ||| s.sFields

/-- The PMP configuration bytes that `pmpcfg` k packs, the lowest entry in the low byte (10_state.md rule R57). The byte of
an entry that the hart lacks reads 0 in a register that exists. DESIGN CHOICE, log 7. -/
def State.pmpcfgWord (s : State) (k : Nat) : Word :=
  let byteOf (j : Nat) : Word :=
    (if 4 * k + j < s.cfg.pmpEntries then (s.pmpCfgAt (4 * k + j)).setWidth 64 else 0) <<< (8 * j)
  match s.cfg.xlen with
  | .rv32 => byteOf 0 ||| byteOf 1 ||| byteOf 2 ||| byteOf 3
  | .rv64 =>
    byteOf 0 ||| byteOf 1 ||| byteOf 2 ||| byteOf 3 ||| byteOf 4 ||| byteOf 5 ||| byteOf 6 ||| byteOf 7

/-- The value a CSR reads as, before it is cut to XLEN bits (10_state.md rules R33 to R66). In RV32 a counter gives its
low half and its `h` form the high half (rule R36). -/
def State.csrValue (s : State) : Csr → Word
  | .fflags => s.fflags.setWidth 64
  | .frm => s.frm.setWidth 64
  | .fcsr => s.fcsr.setWidth 64
  | .cycle => s.cycle
  | .time => s.mtime
  | .instret => s.instret
  | .cycleh => s.cycle >>> 32
  | .timeh => s.mtime >>> 32
  | .instreth => s.instret >>> 32
  | .sstatus => s.sstatusWord
  | .sie => s.mieBits &&& s.mideleg
  | .stvec => s.stvec
  | .sscratch => s.sscratch
  | .sepc => s.epcOf s.sepc
  | .scause => s.scause
  | .stval => s.stval
  | .sip => s.mip &&& s.mideleg
  | .satp => s.satp
  | .mstatus => s.mstatusWord
  | .medeleg => s.medeleg
  | .mideleg => s.mideleg
  | .mie => s.mieBits
  | .mtvec => s.mtvec
  | .mscratch => s.mscratch
  | .mepc => s.epcOf s.mepc
  | .mcause => s.mcause
  | .mtval => s.mtval
  | .mip => s.mip
  | .pmpcfg k => s.pmpcfgWord k.val
  | .pmpaddr i => s.pmpaddr.get i
  | .vcfgd => s.vcfgd

/-- `CSRs[csr]`, XLEN bits (10_state.md rule R41). -/
def State.csrRead (s : State) (r : Csr) : Word := s.cfg.xlen.norm (s.csrValue r)

/-! ## Writes -/

/-- The mode a two-bit code names, where it is implemented (10_state.md rules R28, R48). -/
def privOfCode (m : Modes) (c : BitVec 2) : Option Priv :=
  if c = 0b11#2 then some .m
  else if c = 0b01#2 then (if m.hasS then some .s else none)
  else if c = 0b00#2 then (if m.hasU then some .u else none)
  else none

/-- The fields that `sstatus` shares with `mstatus`, from a value written (10_state.md rule R59). They exist with S-mode
only. -/
def State.putSFields (s : State) (v : Word) : Mstatus :=
  if s.cfg.modes.hasS then
    { s.mstatus with
      sie := v.getLsbD 1, spie := v.getLsbD 5, spp := v.getLsbD 8, sum := v.getLsbD 18, mxr := v.getLsbD 19 }
  else s.mstatus

/-- `mstatus` after a write: hard-wired fields ignore it, and an MPP that is not implemented keeps the old one
(10_state.md rules R46 to R48). -/
def State.putMstatus (s : State) (v : Word) : Mstatus :=
  { s.putSFields v with
    mie := v.getLsbD 3
    mpie := v.getLsbD 7
    mpp := (privOfCode s.cfg.modes (v.extractLsb' 11 2)).getD s.mstatus.mpp }

/-- `mtvec` or `stvec` after a write: MODE 2 and 3, and 1 where there is no vectored mode, keep the old MODE
(10_state.md rule R49, 92_eei_decisions.md D9). -/
def State.putTvec (s : State) (old v : Word) : Word :=
  let mode := v.extractLsb' 0 2
  let keep := mode == 0b10#2 || mode == 0b11#2 || (mode == 0b01#2 && !s.cfg.vectored)
  s.cfg.xlen.norm ((v &&& ~~~3#64) ||| ((if keep then old else v) &&& 3#64))

/-- The bits of `medeleg` that exist: the exception codes 0 to 9, 12, 13 and 15 (10_state.md rule R55). -/
def medelegMask : Word := 0xb3ff#64

/-- The bits of `mideleg` that exist, which are the supervisor's interrupts (10_state.md rule R55). -/
def midelegMask : Word := 0x222#64

/-- `satp` after a write: an unsupported MODE drops it all; ASID bits not implemented read 0 (10_state.md rule R61,
92_eei_decisions.md D8). -/
def State.putSatp (s : State) (v : Word) : Word :=
  match s.cfg.xlen with
  | .rv32 =>
    (v.extractLsb' 31 1 ++ (v.extractLsb' 22 9 &&& BitVec.ofNat 9 (2 ^ s.cfg.asidBits - 1)) ++
      v.extractLsb' 0 22 : BitVec 32).setWidth 64
  | .rv64 =>
    if v.extractLsb' 60 4 = 0#4 ∨ v.extractLsb' 60 4 = 8#4 then
      v.extractLsb' 60 4 ++ (v.extractLsb' 44 16 &&& BitVec.ofNat 16 (2 ^ s.cfg.asidBits - 1)) ++ v.extractLsb' 0 44
    else s.satp

/-- A PMP configuration byte after a write: a locked one ignores it, A = 2 and 3 keep the old A, bits 6:5 are zero
(10_state.md rule R57; 20_memory.md rule R124). -/
def pmpByte (old new : BitVec 8) : BitVec 8 :=
  if old.getLsbD 7 then old
  else
    new.extractLsb' 7 1 ++ 0b00#2 ++ (if new.getLsbD 4 then old.extractLsb' 3 2 else new.extractLsb' 3 2) ++
      new.extractLsb' 0 3

/-- Writes one PMP configuration byte; an entry that does not exist ignores it. DESIGN CHOICE, log 7. -/
def State.putPmpByte (s : State) (i : Nat) (b : BitVec 8) : State :=
  if i < s.cfg.pmpEntries then { s with pmpcfg := s.pmpcfg.setIfInBounds i (pmpByte (s.pmpCfgAt i) b) } else s

/-- Writes `count` PMP configuration bytes from entry i on, the low byte of `v` first. -/
def State.putPmpBytes (s : State) (i : Nat) (v : Word) : Nat → State
  | 0 => s
  | count + 1 => (s.putPmpByte i (v.extractLsb' 0 8)).putPmpBytes (i + 1) (v >>> 8) count

/-- Writes `pmpcfg` k: four entries in RV32, eight in RV64 (10_state.md rule R57). -/
def State.putPmpcfg (s : State) (k : Nat) (v : Word) : State :=
  match s.cfg.xlen with
  | .rv32 => s.putPmpBytes (4 * k) v 4
  | .rv64 => s.putPmpBytes (4 * k) v 8

/-- `pmpaddr[i]` ignores writes: entry i is locked, or entry i + 1 is, whose range starts there (20_memory.md rule
R124). -/
def State.pmpaddrLocked (s : State) (i : Nat) : Bool :=
  (s.pmpCfgAt i).getLsbD 7 || (decide (i + 1 < s.cfg.pmpEntries) && (s.pmpCfgAt (i + 1)).getLsbD 7)

/-- The address bits of a `pmpaddr`: all 32 in RV32; bits 53:0 in RV64, where physical addresses have 56 bits and the
higher bits read zero (10_state.md rule R56; 20_memory.md rule R121). DEDUCED, log 7. -/
def pmpaddrMask : Xlen → Word
  | .rv32 => 0xffffffff#64
  | .rv64 => 0x3fffffffffffff#64

/-- Writes `pmpaddr[i]`. -/
def State.putPmpaddr (s : State) (i : Fin 16) (v : Word) : State :=
  if s.pmpaddrLocked i.val then s
  else { s with pmpaddr := s.pmpaddr.set i.val (v &&& pmpaddrMask s.cfg.xlen) i.isLt }

/-- The bits of `sip` that a write changes: those delegated, from S-mode SSIP only (10_state.md rule R60). -/
def State.sipWritable (s : State) : Word :=
  s.mideleg &&& (if s.priv = .m then 0x222#64 else 0x002#64)

/-- The software bits of `mip` under a mask, from a value written (10_state.md rules R52, R60). They exist with S-mode
only. -/
def State.putMip (s : State) (mask v : Word) : State :=
  if s.cfg.modes.hasS then
    { s with
      ssip := if mask.getLsbD 1 then v.getLsbD 1 else s.ssip
      stip := if mask.getLsbD 5 then v.getLsbD 5 else s.stip
      seip := if mask.getLsbD 9 then v.getLsbD 9 else s.seip }
  else s

/-- Writes a CSR: what each keeps of the value, its reserved and hard-wired fields apart (10_state.md rules R33 to R66).
The counters, being read-only, are never written. -/
def State.csrWrite (s : State) (r : Csr) (v : Word) : State :=
  match r with
  | .fflags => { s with fcsr := s.frm ++ v.extractLsb' 0 5 }
  | .frm => { s with fcsr := v.extractLsb' 0 3 ++ s.fflags }
  | .fcsr => { s with fcsr := v.extractLsb' 0 8 }
  | .cycle => s
  | .time => s
  | .instret => s
  | .cycleh => s
  | .timeh => s
  | .instreth => s
  | .sstatus => { s with mstatus := s.putSFields v }
  | .sie =>
    let writable := s.mideleg &&& midelegMask
    { s with mie := (s.mie &&& ~~~writable) ||| (v &&& writable) }
  | .stvec => { s with stvec := s.putTvec s.stvec v }
  | .sscratch => { s with sscratch := s.cfg.xlen.norm v }
  | .sepc => { s with sepc := s.epcOf v }
  | .scause => { s with scause := s.cfg.xlen.norm v }
  | .stval => { s with stval := s.cfg.xlen.norm v }
  | .sip => s.putMip s.sipWritable v
  | .satp => { s with satp := s.putSatp v }
  | .mstatus => { s with mstatus := s.putMstatus v }
  | .medeleg => { s with medeleg := v &&& medelegMask }
  | .mideleg => { s with mideleg := v &&& midelegMask }
  | .mie => { s with mie := v &&& mieMask s.cfg }
  | .mtvec => { s with mtvec := s.putTvec s.mtvec v }
  | .mscratch => { s with mscratch := s.cfg.xlen.norm v }
  | .mepc => { s with mepc := s.epcOf v }
  | .mcause => { s with mcause := s.cfg.xlen.norm v }
  | .mtval => { s with mtval := s.cfg.xlen.norm v }
  | .mip => s.putMip midelegMask v
  | .pmpcfg k => s.putPmpcfg k.val v
  | .pmpaddr i => s.putPmpaddr i v
  | .vcfgd => s.setVcfgd v

/-! ## The CSR instructions (40_rv32i.md rules R280 to R286) -/

/-- A CSR instruction: `i` is the instruction itself, for the trap value; `new` is the value to write as a function of
the one read, or nothing when the instruction only reads. The checks come first, then `x[rd]`, then the CSR
(40_rv32i.md rule R286). -/
def State.csrAccess (s : State) (i : Instr) (rd : Reg) (a : BitVec 12) (new : Option (Word → Word)) : Result :=
  match csrOf s.cfg a with
  | none => .next (s.illegal i)
  | some r =>
    if !csrPrivOk s.priv a || (new.isSome && csrReadOnly a) then .next (s.illegal i)
    else
      let t := s.csrRead r
      let s' := s.setX rd t
      .next ((match new with
        | none => s'
        | some g => s'.csrWrite r (g t)).retire 4)

end Sys2Proof.Machine
end

