-- ==== Sys2Proof/Machine/Float.lean ====
section
/-!
DEFINITION. IEEE 754-2008 binary arithmetic as 44_fd.md rules R401, R402, R424, R439 and R444 and 44_fd_convert.md rules
R455, R458 and R459 ask for it. Each operation takes the operands' bits apart into exact numbers, computes exactly, and
rounds once.

Bits are held as a `Nat`, so that one text serves every width; a result is the bits and the flags raised.
-/

namespace Sys2Proof.Machine

/-- A binary interchange format: the widths of its exponent and its fraction (44_fd.md rule R401). -/
structure FFmt where
  expBits : Nat
  fracBits : Nat
  deriving DecidableEq, Repr

/-- binary16, an element type of the vector unit (10_state.md rule R64). -/
def fmtH : FFmt := ⟨5, 10⟩
/-- binary32. -/
def fmtS : FFmt := ⟨8, 23⟩
/-- binary64. -/
def fmtD : FFmt := ⟨11, 52⟩

/-- What a pattern of bits stands for. A finite number is `± m × 2^e`; m = 0 is a zero. -/
inductive FVal where
  | nan (signaling : Bool)
  | inf (neg : Bool)
  | fin (neg : Bool) (m : Nat) (e : Int)
  deriving DecidableEq, Repr

/-- The bits of a result and the flags it raises. -/
abbrev FRes := Nat × BitVec 5

/-- The bits of positive infinity: exponent all ones, fraction zero. -/
def FFmt.infBits (t : FFmt) : Nat := (2 ^ t.expBits - 1) * 2 ^ t.fracBits

/-- The value of the sign bit. -/
def FFmt.signBit (t : FFmt) : Nat := 2 ^ (t.expBits + t.fracBits)

/-- The canonical quiet NaN (44_fd.md rule R401). -/
def FFmt.qnan (t : FFmt) : Nat := t.infBits + 2 ^ (t.fracBits - 1)

/-- The exponent of the least normal number. -/
def FFmt.emin (t : FFmt) : Int := 2 - (2 : Int) ^ (t.expBits - 1)

/-- The exponent of the last bit of a subnormal number. -/
def FFmt.qmin (t : FFmt) : Int := t.emin - (t.fracBits : Int)

/-- The bits of a sign and a magnitude. -/
def FFmt.sign (t : FFmt) (neg : Bool) (mag : Nat) : Nat := if neg then t.signBit + mag else mag

/-- The sign bit is set. -/
def FFmt.isNeg (t : FFmt) (b : Nat) : Bool := b / t.signBit % 2 == 1

/-- The bits without the sign. -/
def FFmt.mag (t : FFmt) (b : Nat) : Nat := b % t.signBit

/-- What a pattern stands for (44_fd.md rule R401). Subnormal numbers are taken in full. -/
def FFmt.unpack (t : FFmt) (b : Nat) : FVal :=
  let frac := t.mag b % 2 ^ t.fracBits
  let ex := t.mag b / 2 ^ t.fracBits
  if ex = 2 ^ t.expBits - 1 then
    if frac = 0 then .inf (t.isNeg b) else .nan (frac < 2 ^ (t.fracBits - 1))
  else if ex = 0 then .fin (t.isNeg b) frac t.qmin
  else .fin (t.isNeg b) (2 ^ t.fracBits + frac) (t.qmin + ((ex - 1 : Nat) : Int))

/-- The number without its sign turned. A NaN has none that counts. -/
def FVal.negate : FVal → FVal
  | .nan sg => .nan sg
  | .inf n => .inf (!n)
  | .fin n m e => .fin (!n) m e

/-- The value is a signaling NaN. -/
def FVal.isSignaling : FVal → Bool
  | .nan sg => sg
  | .inf _ => false
  | .fin _ _ _ => false

/-! ## Rounding (44_fd.md rules R401, R402) -/

/-- Whether the magnitude goes up, when `r / 2^k` of a unit is cut off from an integer that is `odd` or not
(10_state.md rule R33). -/
def roundsUp (rm : Rm) (neg odd : Bool) (r k : Nat) : Bool :=
  match rm with
  | .rne => decide (2 ^ k < 2 * r) || (decide (2 ^ k = 2 * r) && odd)
  | .rtz => false
  | .rdn => neg && decide (0 < r)
  | .rup => !neg && decide (0 < r)
  | .rmm => decide (2 ^ k ≤ 2 * r)

/-- `m × 2^e` in units of `2^q`, rounded, and whether something was lost. -/
def roundAt (rm : Rm) (neg : Bool) (m : Nat) (e q : Int) : Nat × Bool :=
  if q ≤ e then (m * 2 ^ (e - q).toNat, false)
  else
    let k := (q - e).toNat
    let i := m / 2 ^ k
    let r := m % 2 ^ k
    (if roundsUp rm neg (i % 2 == 1) r k then i + 1 else i, decide (0 < r))

/-- Overflow gives infinity or the largest finite number, as the mode dictates (44_fd.md rule R402 item 5). -/
def FFmt.overflowMag (t : FFmt) (rm : Rm) (neg : Bool) : Nat :=
  match rm with
  | .rne => t.infBits
  | .rtz => t.infBits - 1
  | .rdn => if neg then t.infBits else t.infBits - 1
  | .rup => if neg then t.infBits - 1 else t.infBits
  | .rmm => t.infBits

/-- The exact number `± m × 2^e` rounded to the format, with OF, UF and NX. Underflow is told after rounding: the
number is tiny when, rounded with no lower bound on the exponent, it lies below the least normal number (44_fd.md rule
R402 items 3 and 5). -/
def FFmt.round (t : FFmt) (rm : Rm) (neg : Bool) (m : Nat) (e : Int) : FRes :=
  if m = 0 then (t.sign neg 0, 0)
  else
    let top := e + (Nat.log2 m : Int)
    let q := max (top - (t.fracBits : Int)) t.qmin
    let rx := roundAt rm neg m e q
    let mag := (q - t.qmin).toNat * 2 ^ t.fracBits + rx.1
    if t.infBits ≤ mag then (t.sign neg (t.overflowMag rm neg), flagOF ||| flagNX)
    else
      let tiny := decide (top < t.emin) &&
        decide ((roundAt rm neg m e (top - (t.fracBits : Int))).1 < 2 ^ ((t.emin - top).toNat + t.fracBits))
      (t.sign neg mag, flagIf rx.2 flagNX ||| flagIf (rx.2 && tiny) flagUF)

/-- A NaN result: the canonical one, with NV when a signaling operand is there (44_fd.md rule R402 items 1, 2). -/
def FFmt.nanRes (t : FFmt) (invalid : Bool) : FRes := (t.qnan, flagIf invalid flagNV)

/-- An infinite result. -/
def FFmt.infRes (t : FFmt) (neg : Bool) : FRes := (t.sign neg t.infBits, 0)

/-! ## Arithmetic (44_fd.md rules R401, R402, R414 to R424) -/

/-- A number as a multiple of `2^q`, for a `q` at most its exponent. -/
def scaledInt (neg : Bool) (m : Nat) (e q : Int) : Int :=
  let v : Int := ((m * 2 ^ (e - q).toNat : Nat) : Int)
  if neg then -v else v

/-- The sum of two finite numbers, rounded. An exact zero sum has the sign of the operands when they agree, and else is
−0 only when rounding down. -/
def FFmt.addFin (t : FFmt) (rm : Rm) (n1 : Bool) (m1 : Nat) (e1 : Int) (n2 : Bool) (m2 : Nat) (e2 : Int) : FRes :=
  let e := min e1 e2
  let v := scaledInt n1 m1 e1 e + scaledInt n2 m2 e2 e
  if v = 0 then (t.sign (if n1 == n2 then n1 else rm == .rdn) 0, 0)
  else t.round rm (decide (v < 0)) v.natAbs e

/-- The sum (44_fd.md rule R414). -/
def FFmt.addVal (t : FFmt) (rm : Rm) (a b : FVal) : FRes :=
  match a, b with
  | .nan x, _ => t.nanRes (x || b.isSignaling)
  | _, .nan y => t.nanRes y
  | .inf n, .inf k => if n == k then t.infRes n else t.nanRes true
  | .inf n, .fin _ _ _ => t.infRes n
  | .fin _ _ _, .inf k => t.infRes k
  | .fin n1 m1 e1, .fin n2 m2 e2 => t.addFin rm n1 m1 e1 n2 m2 e2

def FFmt.add (t : FFmt) (rm : Rm) (a b : Nat) : FRes := t.addVal rm (t.unpack a) (t.unpack b)

/-- The difference (44_fd.md rule R416). -/
def FFmt.sub (t : FFmt) (rm : Rm) (a b : Nat) : FRes := t.addVal rm (t.unpack a) (t.unpack b).negate

/-- The product (44_fd.md rule R418). -/
def FFmt.mulVal (t : FFmt) (rm : Rm) (a b : FVal) : FRes :=
  match a, b with
  | .nan x, _ => t.nanRes (x || b.isSignaling)
  | _, .nan y => t.nanRes y
  | .inf n, .inf k => t.infRes (n ^^ k)
  | .inf n, .fin k m _ => if m = 0 then t.nanRes true else t.infRes (n ^^ k)
  | .fin n m _, .inf k => if m = 0 then t.nanRes true else t.infRes (n ^^ k)
  | .fin n1 m1 e1, .fin n2 m2 e2 => t.round rm (n1 ^^ n2) (m1 * m2) (e1 + e2)

def FFmt.mul (t : FFmt) (rm : Rm) (a b : Nat) : FRes := t.mulVal rm (t.unpack a) (t.unpack b)

/-- The quotient of two finite numbers, the second not zero: enough bits of it, and one more that tells whether it goes
on. -/
def FFmt.divFin (t : FFmt) (rm : Rm) (neg : Bool) (m1 : Nat) (e1 : Int) (m2 : Nat) (e2 : Int) : FRes :=
  let k := 2 * t.fracBits + 4
  let num := m1 * 2 ^ k
  t.round rm neg (2 * (num / m2) + (if num % m2 = 0 then 0 else 1)) (e1 - e2 - (k : Int) - 1)

/-- The quotient (44_fd.md rule R420). -/
def FFmt.divVal (t : FFmt) (rm : Rm) (a b : FVal) : FRes :=
  match a, b with
  | .nan x, _ => t.nanRes (x || b.isSignaling)
  | _, .nan y => t.nanRes y
  | .inf _, .inf _ => t.nanRes true
  | .inf n, .fin k _ _ => t.infRes (n ^^ k)
  | .fin n _ _, .inf k => (t.sign (n ^^ k) 0, 0)
  | .fin n1 m1 e1, .fin n2 m2 e2 =>
    if m2 = 0 then
      if m1 = 0 then t.nanRes true else (t.sign (n1 ^^ n2) t.infBits, flagDZ)
    else t.divFin rm (n1 ^^ n2) m1 e1 m2 e2

def FFmt.div (t : FFmt) (rm : Rm) (a b : Nat) : FRes := t.divVal rm (t.unpack a) (t.unpack b)

/-- The integer square root of `n`, found bit by bit from bit `b − 1` down, above what `r` holds. -/
def isqrtFrom (n : Nat) : Nat → Nat → Nat
  | 0, r => r
  | b + 1, r => if (r + 2 ^ b) * (r + 2 ^ b) ≤ n then isqrtFrom n b (r + 2 ^ b) else isqrtFrom n b r

/-- The integer square root. -/
def isqrt (n : Nat) : Nat := isqrtFrom n (Nat.log2 n / 2 + 1) 0

/-- The square root of a positive finite number: enough bits of it, and one more that tells whether it goes on. -/
def FFmt.sqrtFin (t : FFmt) (rm : Rm) (m : Nat) (e : Int) : FRes :=
  let k := t.fracBits + 3
  let m' := if e % 2 = 0 then m else 2 * m
  let e' := if e % 2 = 0 then e else e - 1
  let n := m' * 2 ^ (2 * k)
  let r := isqrt n
  t.round rm false (2 * r + (if r * r = n then 0 else 1)) (e' / 2 - (k : Int) - 1)

/-- The square root (44_fd.md rules R402 item 4, R422): that of −0 is −0. -/
def FFmt.sqrtVal (t : FFmt) (rm : Rm) (a : FVal) : FRes :=
  match a with
  | .nan x => t.nanRes x
  | .inf n => if n then t.nanRes true else t.infRes false
  | .fin n m e => if m = 0 then (t.sign n 0, 0) else if n then t.nanRes true else t.sqrtFin rm m e

def FFmt.sqrt (t : FFmt) (rm : Rm) (a : Nat) : FRes := t.sqrtVal rm (t.unpack a)

/-- `a × b + c`, rounded once (44_fd.md rules R402 item 6, R424). -/
def FFmt.fmaVal (t : FFmt) (rm : Rm) (a b c : FVal) : FRes :=
  match a, b with
  | .nan x, _ => t.nanRes (x || b.isSignaling || c.isSignaling)
  | .inf _, .nan y => t.nanRes (y || c.isSignaling)
  | .fin _ _ _, .nan y => t.nanRes (y || c.isSignaling)
  | .inf n, .inf k => t.addVal rm (.inf (n ^^ k)) c
  | .inf n, .fin k m _ => if m = 0 then t.nanRes true else t.addVal rm (.inf (n ^^ k)) c
  | .fin n m _, .inf k => if m = 0 then t.nanRes true else t.addVal rm (.inf (n ^^ k)) c
  | .fin n1 m1 e1, .fin n2 m2 e2 => t.addVal rm (.fin (n1 ^^ n2) (m1 * m2) (e1 + e2)) c

/-- `fmadd`: a × b + c. -/
def FFmt.fmadd (t : FFmt) (rm : Rm) (a b c : Nat) : FRes := t.fmaVal rm (t.unpack a) (t.unpack b) (t.unpack c)
/-- `fmsub`: a × b − c. -/
def FFmt.fmsub (t : FFmt) (rm : Rm) (a b c : Nat) : FRes := t.fmaVal rm (t.unpack a) (t.unpack b) (t.unpack c).negate
/-- `fnmsub`: −(a × b) + c. -/
def FFmt.fnmsub (t : FFmt) (rm : Rm) (a b c : Nat) : FRes := t.fmaVal rm (t.unpack a).negate (t.unpack b) (t.unpack c)
/-- `fnmadd`: −(a × b) − c. -/
def FFmt.fnmadd (t : FFmt) (rm : Rm) (a b c : Nat) : FRes :=
  t.fmaVal rm (t.unpack a).negate (t.unpack b) (t.unpack c).negate

/-! ## Sign injection, minimum and maximum, comparison, classification (44_fd.md rules R433 to R450) -/

/-- `fsgnj`: the sign of b on a (44_fd.md rule R433). -/
def FFmt.sgnj (t : FFmt) (a b : Nat) : Nat := t.sign (t.isNeg b) (t.mag a)
/-- `fsgnjn`: the other sign (44_fd.md rule R435). -/
def FFmt.sgnjn (t : FFmt) (a b : Nat) : Nat := t.sign (!t.isNeg b) (t.mag a)
/-- `fsgnjx`: the exclusive or of the signs (44_fd.md rule R437). -/
def FFmt.sgnjx (t : FFmt) (a b : Nat) : Nat := t.sign (t.isNeg a ^^ t.isNeg b) (t.mag a)

/-- The pattern is a NaN. -/
def FFmt.isNan (t : FFmt) (b : Nat) : Bool := decide (t.infBits < t.mag b)

/-- The pattern is a signaling NaN. -/
def FFmt.isSnan (t : FFmt) (b : Nat) : Bool := t.isNan b && decide (t.mag b < t.qnan)

/-- An integer that orders the patterns that are no NaN as the numbers are ordered; the zeros are equal. -/
def FFmt.order (t : FFmt) (b : Nat) : Int := if t.isNeg b then -((t.mag b : Nat) : Int) else ((t.mag b : Nat) : Int)

/-- `fmin` (44_fd.md rule R439): −0 is the smaller zero, a NaN gives way to the other operand. -/
def FFmt.min (t : FFmt) (a b : Nat) : FRes :=
  (if t.isNan a && t.isNan b then t.qnan
   else if t.isNan a then b
   else if t.isNan b then a
   else if t.order a < t.order b ∨ (t.order a = t.order b ∧ t.isNeg a = true) then a else b,
   flagIf (t.isSnan a || t.isSnan b) flagNV)

/-- `fmax` (44_fd.md rule R439). -/
def FFmt.max (t : FFmt) (a b : Nat) : FRes :=
  (if t.isNan a && t.isNan b then t.qnan
   else if t.isNan a then b
   else if t.isNan b then a
   else if t.order b < t.order a ∨ (t.order a = t.order b ∧ t.isNeg b = true) then a else b,
   flagIf (t.isSnan a || t.isSnan b) flagNV)

/-- `feq`: quiet, NV for a signaling NaN only (44_fd.md rule R444). -/
def FFmt.eq (t : FFmt) (a b : Nat) : Bool × BitVec 5 :=
  (!t.isNan a && !t.isNan b && decide (t.order a = t.order b), flagIf (t.isSnan a || t.isSnan b) flagNV)

/-- `flt`: NV for any NaN (44_fd.md rule R444). -/
def FFmt.lt (t : FFmt) (a b : Nat) : Bool × BitVec 5 :=
  (!t.isNan a && !t.isNan b && decide (t.order a < t.order b), flagIf (t.isNan a || t.isNan b) flagNV)

/-- `fle`: NV for any NaN (44_fd.md rule R444). -/
def FFmt.le (t : FFmt) (a b : Nat) : Bool × BitVec 5 :=
  (!t.isNan a && !t.isNan b && decide (t.order a ≤ t.order b), flagIf (t.isNan a || t.isNan b) flagNV)

/-- The number of the one bit that `fclass` sets (44_fd_convert.md rule R455). -/
def FFmt.classBit (t : FFmt) (b : Nat) : Nat :=
  if t.isSnan b then 8
  else if t.isNan b then 9
  else
    let k := if t.mag b = t.infBits then 3 else if t.mag b = 0 then 0 else if t.mag b < 2 ^ t.fracBits then 1 else 2
    if t.isNeg b then 3 - k else 4 + k

/-! ## Conversions (44_fd_convert.md rules R458, R459, R468, R469) -/

/-- To an integer between `lo` and `hi`: out of range and NaN saturate and set NV, otherwise NX when inexact
(44_fd_convert.md rule R458). -/
def FFmt.toInt (t : FFmt) (rm : Rm) (lo hi : Int) (b : Nat) : Int × BitVec 5 :=
  match t.unpack b with
  | .nan _ => (hi, flagNV)
  | .inf n => (if n then lo else hi, flagNV)
  | .fin n m e =>
    let rx := roundAt rm n m e 0
    let v : Int := if n then -((rx.1 : Nat) : Int) else ((rx.1 : Nat) : Int)
    if v < lo then (lo, flagNV) else if hi < v then (hi, flagNV) else (v, flagIf rx.2 flagNX)

/-- From an integer (44_fd_convert.md rule R459). -/
def FFmt.ofInt (t : FFmt) (rm : Rm) (v : Int) : FRes := t.round rm (decide (v < 0)) v.natAbs 0

/-- From one format to another (44_fd_convert.md rules R468, R469). -/
def FFmt.convert (src dst : FFmt) (rm : Rm) (b : Nat) : FRes :=
  match src.unpack b with
  | .nan x => dst.nanRes x
  | .inf n => dst.infRes n
  | .fin n m e => dst.round rm n m e

end Sys2Proof.Machine
end

