-- ==== Sys2Proof/Machine/Shapes.lean ====
section
/-!
DEFINITION. The shapes that many instructions have: write a register and go on, branch, jump and link, load, store, an
atomic access, a floating-point operation that rounds. Each takes the instruction's length, so that a compressed
instruction is its expansion with length 2 (30_encoding.md rule R184).
-/

namespace Sys2Proof.Machine

/-! ## Integer results and control flow -/

/-- Writes `x[rd]` and goes on (40_rv32i.md rule R230). -/
def State.writeX (s : State) (rd : Reg) (v : Word) (len : Word) : Result := .next ((s.setX rd v).retire len)

/-- Goes to a target, or raises Instruction address misaligned when the instruction alignment forbids it
(10_state.md rule R26; 60_exceptions.md rule R704). -/
def State.jumpTo (s : State) (target : Word) : Except Trap State :=
  if target &&& ~~~s.cfg.ialignMask = 0 then .ok (s.retireAt target) else .error ⟨.instrMisaligned, target⟩

/-- A conditional branch (40_rv32i.md rule R261). -/
def State.branch (s : State) (taken : Bool) (off : Word) (len : Word) : Result :=
  s.finish (if taken then s.jumpTo (s.pcTarget off) else .ok (s.retire len))

/-- A jump that links: `rd` gets the address of the next instruction unless the jump raises (40_rv32i.md rule R270). -/
def State.jumpLink (s : State) (rd : Reg) (target : Word) (len : Word) : Result :=
  s.finish (match s.jumpTo target with
    | .error e => .error e
    | .ok t => .ok (t.setX rd (s.pcPlus len)))

/-- The target of `jalr`: the sum with bit 0 cleared (40_rv32i.md rule R271). -/
def State.jalrTarget (s : State) (rs1 : Reg) (off : Word) : Word := s.cfg.xlen.norm (s.getX rs1 + off) &&& ~~~1#64

/-! ## Loads and stores (20_memory.md rules R101, R106) -/

/-- The low `8 n` bits, sign-extended (20_memory.md rule R106). -/
def sext8 (v : Word) : Word := (v.setWidth 8).signExtend 64
def sext16 (v : Word) : Word := (v.setWidth 16).signExtend 64
def sext32 (v : Word) : Word := (v.setWidth 32).signExtend 64

/-- Loads `n` bytes into `x[rd]` (40_rv32i.md rule R252). -/
def State.loadX (s : State) (rd : Reg) (a : Word) (n : Nat) (extend : Word → Word) (len : Word) : Result :=
  s.finish (match s.memRead a n with
    | .error e => .error e
    | .ok (t, v) => .ok ((t.setX rd (extend v)).retire len))

/-- Stores the low `n` bytes of a value (40_rv32i.md rule R252). -/
def State.storeTo (s : State) (a : Word) (n : Nat) (v : Word) (len : Word) : Result :=
  s.finish (match s.memWrite a n v with
    | .error e => .error e
    | .ok t => .ok (t.retire len))

/-- Loads a single into `f[rd]` (44_fd.md rule R410). -/
def State.loadF32 (s : State) (rd : Reg) (a : Word) (len : Word) : Result :=
  s.finish (match s.memRead a 4 with
    | .error e => .error e
    | .ok (t, v) => .ok ((t.setF32 rd (v.setWidth 32)).retire len))

/-- Loads a double into `f[rd]` (44_fd.md rule R411). -/
def State.loadF64 (s : State) (rd : Reg) (a : Word) (len : Word) : Result :=
  s.finish (match s.memRead a 8 with
    | .error e => .error e
    | .ok (t, v) => .ok ((t.setF rd v).retire len))

/-! ## Atomic accesses (43_a.md rules R362, R363, R365) -/

/-- `lr`: loads, and reserves the bytes read (43_a.md rules R365, R366). -/
def State.loadReserved (s : State) (rd rs1 : Reg) (n : Nat) (extend : Word → Word) : Result :=
  s.finish (match s.locate .loadReserved (s.getX rs1) n with
    | .error e => .error e
    | .ok (t, .bytes _) => .ok (t.retire 4)
    | .ok (t, .whole pa) =>
      .ok (({ t.readDone (.whole pa) n with reservation := some ⟨pa, n⟩ }.setX rd
        (extend (t.readPlace (.whole pa) n))).retire 4))

/-- Whether an `sc` whose reservation holds fails all the same: only where `SC_SPURIOUS_FAIL` lets it, and then as the
free value says (43_a.md rule R365 item 7). -/
def State.scSpurious (s : State) : Bool := s.cfg.scSpuriousFail && Config.freeScFails s.free

/-- Counts the draw of `scSpurious`. -/
def State.scDrawn (s : State) : State := { s with free := if s.cfg.scSpuriousFail then s.free + 1 else s.free }

/-- `sc`: stores when the reservation is exactly these bytes, says whether it did, and drops the reservation
(43_a.md rules R365, R368). -/
def State.storeConditional (s : State) (rd rs2 rs1 : Reg) (n : Nat) : Result :=
  s.finish (match s.locate .storeConditional (s.getX rs1) n with
    | .error e => .error e
    | .ok (t, .bytes _) => .ok (t.retire 4)
    | .ok (t, .whole pa) =>
      if t.reservation = some ⟨pa, n⟩ ∧ t.scSpurious = false then
        .ok (({ (t.writePlace (.whole pa) n (s.getX rs2)).scDrawn with reservation := none }.setX rd 0).retire 4)
      else
        .ok (({ t.scDrawn with reservation := none }.setX rd s.cfg.scFailCode).retire 4))

/-- An AMO of `n` bytes: `op` makes the new value of the old one and the source; `rd` gets the old one extended
(43_a.md rule R363). It clears the hart's own reservation on one of its bytes, as a store does: DESIGN CHOICE, log 18. -/
def State.amo (s : State) (rd rs2 rs1 : Reg) (n : Nat) (op : Word → Word → Word) (extend : Word → Word) : Result :=
  s.finish (match s.locate .amo (s.getX rs1) n with
    | .error e => .error e
    | .ok (t, p) =>
      let old := t.readPlace p n
      .ok ((((t.readDone p n).writePlace p n (op old (s.getX rs2))).setX rd (extend old)).retire 4))

/-- An operation on words as one on the low halves (43_a.md rule R363). -/
def onWords (op : BitVec 32 → BitVec 32 → BitVec 32) (a b : Word) : Word :=
  (op (a.setWidth 32) (b.setWidth 32)).setWidth 64

def amoMin {n : Nat} (t s : BitVec n) : BitVec n := if t.slt s then t else s
def amoMax {n : Nat} (t s : BitVec n) : BitVec n := if s.slt t then t else s
def amoMinu {n : Nat} (t s : BitVec n) : BitVec n := if t.ult s then t else s
def amoMaxu {n : Nat} (t s : BitVec n) : BitVec n := if s.ult t then t else s

/-! ## Multiply and divide (42_m.md rules R331, R332) -/

/-- The signed value of an XLEN-bit register. -/
def State.intX (s : State) (r : Reg) : Int := (s.getSx r).toInt
/-- The unsigned value of an XLEN-bit register. -/
def State.natX (s : State) (r : Reg) : Nat := (s.getX r).toNat

/-- The signed quotient, rounded toward zero; −1 for a zero divisor (42_m.md rule R332). The overflow case wraps to the
dividend when it is cut to the width. -/
def quotS (a b : Int) : Int := if b = 0 then -1 else a.tdiv b
/-- The signed remainder; the dividend for a zero divisor (42_m.md rule R332). -/
def remS (a b : Int) : Int := if b = 0 then a else a.tmod b
/-- The unsigned quotient; all ones, `2^width − 1`, for a zero divisor (42_m.md rule R332). -/
def quotU (width a b : Nat) : Nat := if b = 0 then 2 ^ width - 1 else a / b
/-- The unsigned remainder; the dividend for a zero divisor (42_m.md rule R332). -/
def remU (a b : Nat) : Nat := if b = 0 then a else a % b

/-- The high half of a product (42_m.md rules R335 to R337). -/
def State.highHalf (s : State) (p : Int) : Word := BitVec.ofInt 64 (p / (2 : Int) ^ s.cfg.xlen.bits)

/-! ## Floating point (44_fd.md rules R403 to R405) -/

/-- A single-precision operand. -/
def State.opS (s : State) (r : Reg) : Nat := (s.getF32 r).toNat
/-- A double-precision operand. -/
def State.opD (s : State) (r : Reg) : Nat := (s.getF r).toNat

/-- Writes a single-precision result and accrues its flags. -/
def State.putS (s : State) (rd : Reg) (r : FRes) : State := (s.setF32 rd (BitVec.ofNat 32 r.1)).accrue r.2
/-- Writes a double-precision result and accrues its flags. -/
def State.putD (s : State) (rd : Reg) (r : FRes) : State := (s.setF rd (BitVec.ofNat 64 r.1)).accrue r.2
/-- Writes an integer result cut to 32 bits and sign-extended, and accrues its flags (44_fd_convert.md rule R458). -/
def State.putIntW (s : State) (rd : Reg) (r : Int × BitVec 5) : State :=
  (s.setX rd (s.sextW (BitVec.ofInt 32 r.1))).accrue r.2
/-- Writes a 64-bit integer result and accrues its flags. -/
def State.putIntL (s : State) (rd : Reg) (r : Int × BitVec 5) : State := (s.setX rd (BitVec.ofInt 64 r.1)).accrue r.2
/-- Writes the result of a comparison and accrues its flags (44_fd.md rule R444). -/
def State.putFlag (s : State) (rd : Reg) (r : Bool × BitVec 5) : State := (s.setX rd (ofFlag r.1)).accrue r.2

/-- An instruction with an `rm` field: a reserved rounding mode is an illegal instruction, whatever the operation
(44_fd.md rule R404). -/
def State.rounded (s : State) (i : Instr) (rm : BitVec 3) (op : Rm → State) : Result :=
  match s.roundingMode rm with
  | none => .next (s.illegal i)
  | some r => .next ((op r).retire 4)

end Sys2Proof.Machine
end

