-- ==== Sys2Proof/Machine/Atomic.lean ====
section
/-!
DEFINITION. The meanings of A, the atomic instructions (43_a.md rules R366 to R387). On one hart `aq` and `rl` have no
effect (rule R364).
-/

namespace Sys2Proof.Machine

/-- `lr.w` (43_a.md rule R366). `aq` and `rl` have no effect on one hart (rule R364). -/
def execLrW (rd rs1 : Reg) (_aq _rl : Bool) (s : State) : Result := s.loadReserved rd rs1 4 sext32

/-- `sc.w` (43_a.md rule R368). -/
def execScW (rd rs2 rs1 : Reg) (_aq _rl : Bool) (s : State) : Result := s.storeConditional rd rs2 rs1 4

/-- `amoswap.w` (43_a.md rule R370). -/
def execAmoswapW (rd rs2 rs1 : Reg) (_aq _rl : Bool) (s : State) : Result :=
  s.amo rd rs2 rs1 4 (onWords (fun _ b => b)) sext32

/-- `amoadd.w` (43_a.md rule R371). -/
def execAmoaddW (rd rs2 rs1 : Reg) (_aq _rl : Bool) (s : State) : Result :=
  s.amo rd rs2 rs1 4 (onWords (fun a b => a + b)) sext32

/-- `amoxor.w` (43_a.md rule R372). -/
def execAmoxorW (rd rs2 rs1 : Reg) (_aq _rl : Bool) (s : State) : Result :=
  s.amo rd rs2 rs1 4 (onWords (fun a b => a ^^^ b)) sext32

/-- `amoand.w` (43_a.md rule R373). -/
def execAmoandW (rd rs2 rs1 : Reg) (_aq _rl : Bool) (s : State) : Result :=
  s.amo rd rs2 rs1 4 (onWords (fun a b => a &&& b)) sext32

/-- `amoor.w` (43_a.md rule R374). -/
def execAmoorW (rd rs2 rs1 : Reg) (_aq _rl : Bool) (s : State) : Result :=
  s.amo rd rs2 rs1 4 (onWords (fun a b => a ||| b)) sext32

/-- `amomin.w` (43_a.md rule R375). -/
def execAmominW (rd rs2 rs1 : Reg) (_aq _rl : Bool) (s : State) : Result := s.amo rd rs2 rs1 4 (onWords amoMin) sext32

/-- `amomax.w` (43_a.md rule R376). -/
def execAmomaxW (rd rs2 rs1 : Reg) (_aq _rl : Bool) (s : State) : Result := s.amo rd rs2 rs1 4 (onWords amoMax) sext32

/-- `amominu.w` (43_a.md rule R377). -/
def execAmominuW (rd rs2 rs1 : Reg) (_aq _rl : Bool) (s : State) : Result :=
  s.amo rd rs2 rs1 4 (onWords amoMinu) sext32

/-- `amomaxu.w` (43_a.md rule R378). -/
def execAmomaxuW (rd rs2 rs1 : Reg) (_aq _rl : Bool) (s : State) : Result :=
  s.amo rd rs2 rs1 4 (onWords amoMaxu) sext32

/-- `lr.d` (43_a.md rule R367). `aq` and `rl` have no effect on one hart (rule R364). -/
def execLrD (rd rs1 : Reg) (_aq _rl : Bool) (s : State) : Result := s.loadReserved rd rs1 8 id

/-- `sc.d` (43_a.md rule R369). -/
def execScD (rd rs2 rs1 : Reg) (_aq _rl : Bool) (s : State) : Result := s.storeConditional rd rs2 rs1 8

/-- `amoswap.d` (43_a.md rule R379). -/
def execAmoswapD (rd rs2 rs1 : Reg) (_aq _rl : Bool) (s : State) : Result := s.amo rd rs2 rs1 8 (fun _ b => b) id

/-- `amoadd.d` (43_a.md rule R380). -/
def execAmoaddD (rd rs2 rs1 : Reg) (_aq _rl : Bool) (s : State) : Result := s.amo rd rs2 rs1 8 (fun a b => a + b) id

/-- `amoxor.d` (43_a.md rule R381). -/
def execAmoxorD (rd rs2 rs1 : Reg) (_aq _rl : Bool) (s : State) : Result := s.amo rd rs2 rs1 8 (fun a b => a ^^^ b) id

/-- `amoand.d` (43_a.md rule R382). -/
def execAmoandD (rd rs2 rs1 : Reg) (_aq _rl : Bool) (s : State) : Result := s.amo rd rs2 rs1 8 (fun a b => a &&& b) id

/-- `amoor.d` (43_a.md rule R383). -/
def execAmoorD (rd rs2 rs1 : Reg) (_aq _rl : Bool) (s : State) : Result := s.amo rd rs2 rs1 8 (fun a b => a ||| b) id

/-- `amomin.d` (43_a.md rule R384). -/
def execAmominD (rd rs2 rs1 : Reg) (_aq _rl : Bool) (s : State) : Result := s.amo rd rs2 rs1 8 amoMin id

/-- `amomax.d` (43_a.md rule R385). -/
def execAmomaxD (rd rs2 rs1 : Reg) (_aq _rl : Bool) (s : State) : Result := s.amo rd rs2 rs1 8 amoMax id

/-- `amominu.d` (43_a.md rule R386). -/
def execAmominuD (rd rs2 rs1 : Reg) (_aq _rl : Bool) (s : State) : Result := s.amo rd rs2 rs1 8 amoMinu id

/-- `amomaxu.d` (43_a.md rule R387). -/
def execAmomaxuD (rd rs2 rs1 : Reg) (_aq _rl : Bool) (s : State) : Result := s.amo rd rs2 rs1 8 amoMaxu id

end Sys2Proof.Machine
end

