-- ==== Sys2Proof/Machine/Base.lean ====
section
/-!
DEFINITION. The meanings of RV32I: upper immediates, jumps, branches, loads, stores, computation (40_rv32i.md rules
R231 to R271), which RV64I has with XLEN = 64 (41_rv64i.md rule R301).
-/

namespace Sys2Proof.Machine

/-- `lui` (40_rv32i.md rule R250). -/
def execLui (rd : Reg) (imm : BitVec 20) (s : State) : Result := s.writeX rd (immU s.cfg.xlen imm) 4

/-- `auipc` (40_rv32i.md rule R251). -/
def execAuipc (rd : Reg) (imm : BitVec 20) (s : State) : Result := s.writeX rd (s.pcTarget (immU s.cfg.xlen imm)) 4

/-- `jal` (40_rv32i.md rule R270). -/
def execJal (rd : Reg) (offset : BitVec 20) (s : State) : Result :=
  s.jumpLink rd (s.pcTarget (Machine.offset s.cfg.xlen offset)) 4

/-- `jalr` (40_rv32i.md rule R271). -/
def execJalr (rd rs1 : Reg) (imm : BitVec 12) (s : State) : Result :=
  s.jumpLink rd (s.jalrTarget rs1 (s.cfg.xlen.sext imm)) 4

/-- `beq` (40_rv32i.md rule R262). -/
def execBeq (rs1 rs2 : Reg) (offset : BitVec 12) (s : State) : Result :=
  s.branch (s.getX rs1 == s.getX rs2) (Machine.offset s.cfg.xlen offset) 4

/-- `bne` (40_rv32i.md rule R263). -/
def execBne (rs1 rs2 : Reg) (offset : BitVec 12) (s : State) : Result :=
  s.branch (s.getX rs1 != s.getX rs2) (Machine.offset s.cfg.xlen offset) 4

/-- `blt` (40_rv32i.md rule R264). -/
def execBlt (rs1 rs2 : Reg) (offset : BitVec 12) (s : State) : Result :=
  s.branch ((s.getSx rs1).slt (s.getSx rs2)) (Machine.offset s.cfg.xlen offset) 4

/-- `bge` (40_rv32i.md rule R265). -/
def execBge (rs1 rs2 : Reg) (offset : BitVec 12) (s : State) : Result :=
  s.branch (!(s.getSx rs1).slt (s.getSx rs2)) (Machine.offset s.cfg.xlen offset) 4

/-- `bltu` (40_rv32i.md rule R266). -/
def execBltu (rs1 rs2 : Reg) (offset : BitVec 12) (s : State) : Result :=
  s.branch ((s.getX rs1).ult (s.getX rs2)) (Machine.offset s.cfg.xlen offset) 4

/-- `bgeu` (40_rv32i.md rule R267). -/
def execBgeu (rs1 rs2 : Reg) (offset : BitVec 12) (s : State) : Result :=
  s.branch (!(s.getX rs1).ult (s.getX rs2)) (Machine.offset s.cfg.xlen offset) 4

/-- `lb` (40_rv32i.md rule R253). -/
def execLb (rd rs1 : Reg) (imm : BitVec 12) (s : State) : Result := s.loadX rd (s.eaImm rs1 imm) 1 sext8 4

/-- `lh` (40_rv32i.md rule R254). -/
def execLh (rd rs1 : Reg) (imm : BitVec 12) (s : State) : Result := s.loadX rd (s.eaImm rs1 imm) 2 sext16 4

/-- `lw` (40_rv32i.md rule R255). -/
def execLw (rd rs1 : Reg) (imm : BitVec 12) (s : State) : Result := s.loadX rd (s.eaImm rs1 imm) 4 sext32 4

/-- `lbu` (40_rv32i.md rule R256). -/
def execLbu (rd rs1 : Reg) (imm : BitVec 12) (s : State) : Result := s.loadX rd (s.eaImm rs1 imm) 1 id 4

/-- `lhu` (40_rv32i.md rule R257). -/
def execLhu (rd rs1 : Reg) (imm : BitVec 12) (s : State) : Result := s.loadX rd (s.eaImm rs1 imm) 2 id 4

/-- `sb` (40_rv32i.md rule R258). -/
def execSb (rs2 rs1 : Reg) (imm : BitVec 12) (s : State) : Result := s.storeTo (s.eaImm rs1 imm) 1 (s.getX rs2) 4

/-- `sh` (40_rv32i.md rule R259). -/
def execSh (rs2 rs1 : Reg) (imm : BitVec 12) (s : State) : Result := s.storeTo (s.eaImm rs1 imm) 2 (s.getX rs2) 4

/-- `sw` (40_rv32i.md rule R260). -/
def execSw (rs2 rs1 : Reg) (imm : BitVec 12) (s : State) : Result := s.storeTo (s.eaImm rs1 imm) 4 (s.getX rs2) 4

/-- `addi` (40_rv32i.md rule R241). -/
def execAddi (rd rs1 : Reg) (imm : BitVec 12) (s : State) : Result := s.writeX rd (s.getX rs1 + s.cfg.xlen.sext imm) 4

/-- `slti` (40_rv32i.md rule R242). The comparison is of the values sign-extended to 64 bits. -/
def execSlti (rd rs1 : Reg) (imm : BitVec 12) (s : State) : Result :=
  s.writeX rd (ofFlag ((s.getSx rs1).slt (imm.signExtend 64))) 4

/-- `sltiu` (40_rv32i.md rule R243). -/
def execSltiu (rd rs1 : Reg) (imm : BitVec 12) (s : State) : Result :=
  s.writeX rd (ofFlag ((s.getX rs1).ult (s.cfg.xlen.sext imm))) 4

/-- `xori` (40_rv32i.md rule R244). -/
def execXori (rd rs1 : Reg) (imm : BitVec 12) (s : State) : Result :=
  s.writeX rd (s.getX rs1 ^^^ s.cfg.xlen.sext imm) 4

/-- `ori` (40_rv32i.md rule R245). -/
def execOri (rd rs1 : Reg) (imm : BitVec 12) (s : State) : Result :=
  s.writeX rd (s.getX rs1 ||| s.cfg.xlen.sext imm) 4

/-- `andi` (40_rv32i.md rule R246). -/
def execAndi (rd rs1 : Reg) (imm : BitVec 12) (s : State) : Result :=
  s.writeX rd (s.getX rs1 &&& s.cfg.xlen.sext imm) 4

/-- `slli` (40_rv32i.md rule R247). -/
def execSlli (rd rs1 : Reg) (shamt : BitVec 6) (s : State) : Result := s.writeX rd (s.getX rs1 <<< shamt.toNat) 4

/-- `srli` (40_rv32i.md rule R248). -/
def execSrli (rd rs1 : Reg) (shamt : BitVec 6) (s : State) : Result := s.writeX rd (s.getX rs1 >>> shamt.toNat) 4

/-- `srai` (40_rv32i.md rule R249). -/
def execSrai (rd rs1 : Reg) (shamt : BitVec 6) (s : State) : Result :=
  s.writeX rd ((s.getSx rs1).sshiftRight shamt.toNat) 4

/-- `add` (40_rv32i.md rule R231). -/
def execAdd (rd rs1 rs2 : Reg) (s : State) : Result := s.writeX rd (s.getX rs1 + s.getX rs2) 4

/-- `sub` (40_rv32i.md rule R232). -/
def execSub (rd rs1 rs2 : Reg) (s : State) : Result := s.writeX rd (s.getX rs1 - s.getX rs2) 4

/-- `sll` (40_rv32i.md rule R233). -/
def execSll (rd rs1 rs2 : Reg) (s : State) : Result := s.writeX rd (s.getX rs1 <<< s.shiftX rs2) 4

/-- `slt` (40_rv32i.md rule R234). -/
def execSlt (rd rs1 rs2 : Reg) (s : State) : Result := s.writeX rd (ofFlag ((s.getSx rs1).slt (s.getSx rs2))) 4

/-- `sltu` (40_rv32i.md rule R235). -/
def execSltu (rd rs1 rs2 : Reg) (s : State) : Result := s.writeX rd (ofFlag ((s.getX rs1).ult (s.getX rs2))) 4

/-- `xor` (40_rv32i.md rule R236). -/
def execXor (rd rs1 rs2 : Reg) (s : State) : Result := s.writeX rd (s.getX rs1 ^^^ s.getX rs2) 4

/-- `srl` (40_rv32i.md rule R237). -/
def execSrl (rd rs1 rs2 : Reg) (s : State) : Result := s.writeX rd (s.getX rs1 >>> s.shiftX rs2) 4

/-- `sra` (40_rv32i.md rule R238). -/
def execSra (rd rs1 rs2 : Reg) (s : State) : Result := s.writeX rd ((s.getSx rs1).sshiftRight (s.shiftX rs2)) 4

/-- `or` (40_rv32i.md rule R239). -/
def execOr (rd rs1 rs2 : Reg) (s : State) : Result := s.writeX rd (s.getX rs1 ||| s.getX rs2) 4

/-- `and` (40_rv32i.md rule R240). -/
def execAnd (rd rs1 rs2 : Reg) (s : State) : Result := s.writeX rd (s.getX rs1 &&& s.getX rs2) 4

end Sys2Proof.Machine
end

