-- ==== Sys2Proof/Machine/Base64.lean ====
section
/-!
DEFINITION. The meanings of the instructions that RV64I adds (41_rv64i.md rules R302 to R315).
-/

namespace Sys2Proof.Machine

/-- `lwu` (41_rv64i.md rule R305). -/
def execLwu (rd rs1 : Reg) (imm : BitVec 12) (s : State) : Result := s.loadX rd (s.eaImm rs1 imm) 4 id 4

/-- `ld` (41_rv64i.md rule R304). -/
def execLd (rd rs1 : Reg) (imm : BitVec 12) (s : State) : Result := s.loadX rd (s.eaImm rs1 imm) 8 id 4

/-- `sd` (41_rv64i.md rule R306). -/
def execSd (rs2 rs1 : Reg) (imm : BitVec 12) (s : State) : Result := s.storeTo (s.eaImm rs1 imm) 8 (s.getX rs2) 4

/-- `addiw` (41_rv64i.md rule R307). -/
def execAddiw (rd rs1 : Reg) (imm : BitVec 12) (s : State) : Result :=
  s.writeX rd (s.sextW (s.getW rs1 + imm.signExtend 32)) 4

/-- `slliw` (41_rv64i.md rule R308). -/
def execSlliw (rd rs1 : Reg) (shamt : BitVec 5) (s : State) : Result :=
  s.writeX rd (s.sextW (s.getW rs1 <<< shamt.toNat)) 4

/-- `srliw` (41_rv64i.md rule R309). -/
def execSrliw (rd rs1 : Reg) (shamt : BitVec 5) (s : State) : Result :=
  s.writeX rd (s.sextW (s.getW rs1 >>> shamt.toNat)) 4

/-- `sraiw` (41_rv64i.md rule R310). -/
def execSraiw (rd rs1 : Reg) (shamt : BitVec 5) (s : State) : Result :=
  s.writeX rd (s.sextW ((s.getW rs1).sshiftRight shamt.toNat)) 4

/-- `addw` (41_rv64i.md rule R311). -/
def execAddw (rd rs1 rs2 : Reg) (s : State) : Result := s.writeX rd (s.sextW (s.getW rs1 + s.getW rs2)) 4

/-- `subw` (41_rv64i.md rule R312). -/
def execSubw (rd rs1 rs2 : Reg) (s : State) : Result := s.writeX rd (s.sextW (s.getW rs1 - s.getW rs2)) 4

/-- `sllw` (41_rv64i.md rule R313). -/
def execSllw (rd rs1 rs2 : Reg) (s : State) : Result := s.writeX rd (s.sextW (s.getW rs1 <<< s.shiftW rs2)) 4

/-- `srlw` (41_rv64i.md rule R314). -/
def execSrlw (rd rs1 rs2 : Reg) (s : State) : Result := s.writeX rd (s.sextW (s.getW rs1 >>> s.shiftW rs2)) 4

/-- `sraw` (41_rv64i.md rule R315). -/
def execSraw (rd rs1 rs2 : Reg) (s : State) : Result :=
  s.writeX rd (s.sextW ((s.getW rs1).sshiftRight (s.shiftW rs2))) 4

end Sys2Proof.Machine
end

