-- ==== Sys2Proof/Machine/Compressed.lean ====
section
/-!
DEFINITION. The meanings of C: each instruction is its expansion, 2 bytes long (45_c.md rules R506 to R553).
-/

namespace Sys2Proof.Machine

/-- `c.addi4spn` (45_c.md rule R510). -/
def execCAddi4spn (rd : CReg) (uimm : BitVec 8) (s : State) : Result := s.writeX rd.reg (s.getX sp + scaled uimm 2) 2

/-- `c.fld` (45_c.md rule R511). -/
def execCFld (rd rs1 : CReg) (uimm : BitVec 5) (s : State) : Result :=
  s.loadF64 rd.reg (s.ea rs1.reg (scaled uimm 3)) 2

/-- `c.lw` (45_c.md rule R512). -/
def execCLw (rd rs1 : CReg) (uimm : BitVec 5) (s : State) : Result :=
  s.loadX rd.reg (s.ea rs1.reg (scaled uimm 2)) 4 sext32 2

/-- `c.flw` (45_c.md rule R513). -/
def execCFlw (rd rs1 : CReg) (uimm : BitVec 5) (s : State) : Result :=
  s.loadF32 rd.reg (s.ea rs1.reg (scaled uimm 2)) 2

/-- `c.ld` (45_c.md rule R517). -/
def execCLd (rd rs1 : CReg) (uimm : BitVec 5) (s : State) : Result :=
  s.loadX rd.reg (s.ea rs1.reg (scaled uimm 3)) 8 id 2

/-- `c.fsd` (45_c.md rule R514). -/
def execCFsd (rs2 rs1 : CReg) (uimm : BitVec 5) (s : State) : Result :=
  s.storeTo (s.ea rs1.reg (scaled uimm 3)) 8 (s.getF rs2.reg) 2

/-- `c.sw` (45_c.md rule R515). -/
def execCSw (rs2 rs1 : CReg) (uimm : BitVec 5) (s : State) : Result :=
  s.storeTo (s.ea rs1.reg (scaled uimm 2)) 4 (s.getX rs2.reg) 2

/-- `c.fsw` (45_c.md rule R516). -/
def execCFsw (rs2 rs1 : CReg) (uimm : BitVec 5) (s : State) : Result :=
  s.storeTo (s.ea rs1.reg (scaled uimm 2)) 4 ((s.getFRaw32 rs2.reg).setWidth 64) 2

/-- `c.sd` (45_c.md rule R518). -/
def execCSd (rs2 rs1 : CReg) (uimm : BitVec 5) (s : State) : Result :=
  s.storeTo (s.ea rs1.reg (scaled uimm 3)) 8 (s.getX rs2.reg) 2

/-- `c.nop` (45_c.md rule R520). -/
def execCNop (_imm : BitVec 6) (s : State) : Result := .next (s.retire 2)

/-- `c.addi` (45_c.md rule R521). -/
def execCAddi (rd : Reg) (imm : BitVec 6) (s : State) : Result := s.writeX rd (s.getX rd + s.cfg.xlen.sext imm) 2

/-- `c.jal` (45_c.md rule R522). -/
def execCJal (offset : BitVec 11) (s : State) : Result :=
  s.jumpLink ra (s.pcTarget (Machine.offset s.cfg.xlen offset)) 2

/-- `c.addiw` (45_c.md rule R523). -/
def execCAddiw (rd : Reg) (imm : BitVec 6) (s : State) : Result :=
  s.writeX rd (s.sextW (s.getW rd + imm.signExtend 32)) 2

/-- `c.li` (45_c.md rule R524). -/
def execCLi (rd : Reg) (imm : BitVec 6) (s : State) : Result := s.writeX rd (s.cfg.xlen.sext imm) 2

/-- `c.addi16sp` (45_c.md rule R525). -/
def execCAddi16sp (imm : BitVec 6) (s : State) : Result := s.writeX sp (s.getX sp + imm16sp s.cfg.xlen imm) 2

/-- `c.lui` (45_c.md rule R526). -/
def execCLui (rd : Reg) (imm : BitVec 6) (s : State) : Result := s.writeX rd (immCLui s.cfg.xlen imm) 2

/-- `c.srli` (45_c.md rule R527). -/
def execCSrli (rd : CReg) (uimm : BitVec 6) (s : State) : Result := s.writeX rd.reg (s.getX rd.reg >>> uimm.toNat) 2

/-- `c.srai` (45_c.md rule R528). -/
def execCSrai (rd : CReg) (uimm : BitVec 6) (s : State) : Result :=
  s.writeX rd.reg ((s.getSx rd.reg).sshiftRight uimm.toNat) 2

/-- `c.andi` (45_c.md rule R529). -/
def execCAndi (rd : CReg) (imm : BitVec 6) (s : State) : Result :=
  s.writeX rd.reg (s.getX rd.reg &&& s.cfg.xlen.sext imm) 2

/-- `c.sub` (45_c.md rule R530). -/
def execCSub (rd rs2 : CReg) (s : State) : Result := s.writeX rd.reg (s.getX rd.reg - s.getX rs2.reg) 2

/-- `c.xor` (45_c.md rule R531). -/
def execCXor (rd rs2 : CReg) (s : State) : Result := s.writeX rd.reg (s.getX rd.reg ^^^ s.getX rs2.reg) 2

/-- `c.or` (45_c.md rule R532). -/
def execCOr (rd rs2 : CReg) (s : State) : Result := s.writeX rd.reg (s.getX rd.reg ||| s.getX rs2.reg) 2

/-- `c.and` (45_c.md rule R533). -/
def execCAnd (rd rs2 : CReg) (s : State) : Result := s.writeX rd.reg (s.getX rd.reg &&& s.getX rs2.reg) 2

/-- `c.subw` (45_c.md rule R534). -/
def execCSubw (rd rs2 : CReg) (s : State) : Result := s.writeX rd.reg (s.sextW (s.getW rd.reg - s.getW rs2.reg)) 2

/-- `c.addw` (45_c.md rule R535). -/
def execCAddw (rd rs2 : CReg) (s : State) : Result := s.writeX rd.reg (s.sextW (s.getW rd.reg + s.getW rs2.reg)) 2

/-- `c.j` (45_c.md rule R536). -/
def execCJ (offset : BitVec 11) (s : State) : Result := s.jumpLink 0 (s.pcTarget (Machine.offset s.cfg.xlen offset)) 2

/-- `c.beqz` (45_c.md rule R537). -/
def execCBeqz (rs1 : CReg) (offset : BitVec 8) (s : State) : Result :=
  s.branch (s.getX rs1.reg == 0) (Machine.offset s.cfg.xlen offset) 2

/-- `c.bnez` (45_c.md rule R538). -/
def execCBnez (rs1 : CReg) (offset : BitVec 8) (s : State) : Result :=
  s.branch (s.getX rs1.reg != 0) (Machine.offset s.cfg.xlen offset) 2

/-- `c.slli` (45_c.md rule R540). -/
def execCSlli (rd : Reg) (uimm : BitVec 6) (s : State) : Result := s.writeX rd (s.getX rd <<< uimm.toNat) 2

/-- `c.fldsp` (45_c.md rule R541). -/
def execCFldsp (rd : Reg) (uimm : BitVec 6) (s : State) : Result := s.loadF64 rd (s.ea sp (scaled uimm 3)) 2

/-- `c.lwsp` (45_c.md rule R542). -/
def execCLwsp (rd : Reg) (uimm : BitVec 6) (s : State) : Result := s.loadX rd (s.ea sp (scaled uimm 2)) 4 sext32 2

/-- `c.flwsp` (45_c.md rule R543). -/
def execCFlwsp (rd : Reg) (uimm : BitVec 6) (s : State) : Result := s.loadF32 rd (s.ea sp (scaled uimm 2)) 2

/-- `c.ldsp` (45_c.md rule R544). -/
def execCLdsp (rd : Reg) (uimm : BitVec 6) (s : State) : Result := s.loadX rd (s.ea sp (scaled uimm 3)) 8 id 2

/-- `c.ebreak` (45_c.md rule R547). -/
def execCEbreak (s : State) : Result := .next (s.raise ⟨.breakpoint, 0⟩)

/-- `c.jr` (45_c.md rule R545). -/
def execCJr (rs1 : Reg) (s : State) : Result := s.jumpLink 0 (s.jalrTarget rs1 0) 2

/-- `c.jalr` (45_c.md rule R548). -/
def execCJalr (rs1 : Reg) (s : State) : Result := s.jumpLink ra (s.jalrTarget rs1 0) 2

/-- `c.mv` (45_c.md rule R546). -/
def execCMv (rd rs2 : Reg) (s : State) : Result := s.writeX rd (s.getX rs2) 2

/-- `c.add` (45_c.md rule R549). -/
def execCAdd (rd rs2 : Reg) (s : State) : Result := s.writeX rd (s.getX rd + s.getX rs2) 2

/-- `c.fsdsp` (45_c.md rule R550). -/
def execCFsdsp (rs2 : Reg) (uimm : BitVec 6) (s : State) : Result :=
  s.storeTo (s.ea sp (scaled uimm 3)) 8 (s.getF rs2) 2

/-- `c.swsp` (45_c.md rule R551). -/
def execCSwsp (rs2 : Reg) (uimm : BitVec 6) (s : State) : Result :=
  s.storeTo (s.ea sp (scaled uimm 2)) 4 (s.getX rs2) 2

/-- `c.fswsp` (45_c.md rule R552). -/
def execCFswsp (rs2 : Reg) (uimm : BitVec 6) (s : State) : Result :=
  s.storeTo (s.ea sp (scaled uimm 2)) 4 ((s.getFRaw32 rs2).setWidth 64) 2

/-- `c.sdsp` (45_c.md rule R553). -/
def execCSdsp (rs2 : Reg) (uimm : BitVec 6) (s : State) : Result :=
  s.storeTo (s.ea sp (scaled uimm 3)) 8 (s.getX rs2) 2

end Sys2Proof.Machine
end

