-- ==== Sys2Proof/Machine/Convert.lean ====
section
/-!
DEFINITION. The meanings of F and D: classification, conversions, moves (44_fd_convert.md rules R455 to R482).
-/

namespace Sys2Proof.Machine

/-- `fclass.s` (44_fd_convert.md rule R455). -/
def execFclassS (rd rs1 : Reg) (s : State) : Result := s.writeX rd (1#64 <<< fmtS.classBit (s.opS rs1)) 4

/-- `fclass.d` (44_fd_convert.md rule R456). -/
def execFclassD (rd rs1 : Reg) (s : State) : Result := s.writeX rd (1#64 <<< fmtD.classBit (s.opD rs1)) 4

/-- `fcvt.w.s` (44_fd_convert.md rule R460). -/
def execFcvtWS (rd rs1 : Reg) (rm : BitVec 3) (s : State) : Result :=
  s.rounded (.fcvtWS rd rs1 rm) rm fun r => s.putIntW rd (fmtS.toInt r (-2 ^ 31) (2 ^ 31 - 1) (s.opS rs1))

/-- `fcvt.w.d` (44_fd_convert.md rule R464). -/
def execFcvtWD (rd rs1 : Reg) (rm : BitVec 3) (s : State) : Result :=
  s.rounded (.fcvtWD rd rs1 rm) rm fun r => s.putIntW rd (fmtD.toInt r (-2 ^ 31) (2 ^ 31 - 1) (s.opD rs1))

/-- `fcvt.wu.s` (44_fd_convert.md rule R461). -/
def execFcvtWuS (rd rs1 : Reg) (rm : BitVec 3) (s : State) : Result :=
  s.rounded (.fcvtWuS rd rs1 rm) rm fun r => s.putIntW rd (fmtS.toInt r 0 (2 ^ 32 - 1) (s.opS rs1))

/-- `fcvt.wu.d` (44_fd_convert.md rule R465). -/
def execFcvtWuD (rd rs1 : Reg) (rm : BitVec 3) (s : State) : Result :=
  s.rounded (.fcvtWuD rd rs1 rm) rm fun r => s.putIntW rd (fmtD.toInt r 0 (2 ^ 32 - 1) (s.opD rs1))

/-- `fcvt.s.w` (44_fd_convert.md rule R462). -/
def execFcvtSW (rd rs1 : Reg) (rm : BitVec 3) (s : State) : Result :=
  s.rounded (.fcvtSW rd rs1 rm) rm fun r => s.putS rd (fmtS.ofInt r (s.getW rs1).toInt)

/-- `fcvt.d.w` (44_fd_convert.md rule R466). -/
def execFcvtDW (rd rs1 : Reg) (rm : BitVec 3) (s : State) : Result :=
  s.rounded (.fcvtDW rd rs1 rm) rm fun r => s.putD rd (fmtD.ofInt r (s.getW rs1).toInt)

/-- `fcvt.s.wu` (44_fd_convert.md rule R463). -/
def execFcvtSWu (rd rs1 : Reg) (rm : BitVec 3) (s : State) : Result :=
  s.rounded (.fcvtSWu rd rs1 rm) rm fun r => s.putS rd (fmtS.ofInt r ((s.getW rs1).toNat : Int))

/-- `fcvt.d.wu` (44_fd_convert.md rule R467). -/
def execFcvtDWu (rd rs1 : Reg) (rm : BitVec 3) (s : State) : Result :=
  s.rounded (.fcvtDWu rd rs1 rm) rm fun r => s.putD rd (fmtD.ofInt r ((s.getW rs1).toNat : Int))

/-- `fcvt.s.d` (44_fd_convert.md rule R468). -/
def execFcvtSD (rd rs1 : Reg) (rm : BitVec 3) (s : State) : Result :=
  s.rounded (.fcvtSD rd rs1 rm) rm fun r => s.putS rd (fmtD.convert fmtS r (s.opD rs1))

/-- `fcvt.d.s` (44_fd_convert.md rule R469). -/
def execFcvtDS (rd rs1 : Reg) (rm : BitVec 3) (s : State) : Result :=
  s.rounded (.fcvtDS rd rs1 rm) rm fun r => s.putD rd (fmtS.convert fmtD r (s.opS rs1))

/-- `fmv.x.w` (44_fd_convert.md rule R470). -/
def execFmvXW (rd rs1 : Reg) (s : State) : Result := s.writeX rd (s.sextW (s.getFRaw32 rs1)) 4

/-- `fmv.w.x` (44_fd_convert.md rule R471). -/
def execFmvWX (rd rs1 : Reg) (s : State) : Result := .next ((s.setF32 rd (s.getW rs1)).retire 4)

/-- `fcvt.l.s` (44_fd_convert.md rule R473). -/
def execFcvtLS (rd rs1 : Reg) (rm : BitVec 3) (s : State) : Result :=
  s.rounded (.fcvtLS rd rs1 rm) rm fun r => s.putIntL rd (fmtS.toInt r (-2 ^ 63) (2 ^ 63 - 1) (s.opS rs1))

/-- `fcvt.l.d` (44_fd_convert.md rule R477). -/
def execFcvtLD (rd rs1 : Reg) (rm : BitVec 3) (s : State) : Result :=
  s.rounded (.fcvtLD rd rs1 rm) rm fun r => s.putIntL rd (fmtD.toInt r (-2 ^ 63) (2 ^ 63 - 1) (s.opD rs1))

/-- `fcvt.lu.s` (44_fd_convert.md rule R474). -/
def execFcvtLuS (rd rs1 : Reg) (rm : BitVec 3) (s : State) : Result :=
  s.rounded (.fcvtLuS rd rs1 rm) rm fun r => s.putIntL rd (fmtS.toInt r 0 (2 ^ 64 - 1) (s.opS rs1))

/-- `fcvt.lu.d` (44_fd_convert.md rule R478). -/
def execFcvtLuD (rd rs1 : Reg) (rm : BitVec 3) (s : State) : Result :=
  s.rounded (.fcvtLuD rd rs1 rm) rm fun r => s.putIntL rd (fmtD.toInt r 0 (2 ^ 64 - 1) (s.opD rs1))

/-- `fcvt.s.l` (44_fd_convert.md rule R475). -/
def execFcvtSL (rd rs1 : Reg) (rm : BitVec 3) (s : State) : Result :=
  s.rounded (.fcvtSL rd rs1 rm) rm fun r => s.putS rd (fmtS.ofInt r (s.getX rs1).toInt)

/-- `fcvt.d.l` (44_fd_convert.md rule R479). -/
def execFcvtDL (rd rs1 : Reg) (rm : BitVec 3) (s : State) : Result :=
  s.rounded (.fcvtDL rd rs1 rm) rm fun r => s.putD rd (fmtD.ofInt r (s.getX rs1).toInt)

/-- `fcvt.s.lu` (44_fd_convert.md rule R476). -/
def execFcvtSLu (rd rs1 : Reg) (rm : BitVec 3) (s : State) : Result :=
  s.rounded (.fcvtSLu rd rs1 rm) rm fun r => s.putS rd (fmtS.ofInt r ((s.getX rs1).toNat : Int))

/-- `fcvt.d.lu` (44_fd_convert.md rule R480). -/
def execFcvtDLu (rd rs1 : Reg) (rm : BitVec 3) (s : State) : Result :=
  s.rounded (.fcvtDLu rd rs1 rm) rm fun r => s.putD rd (fmtD.ofInt r ((s.getX rs1).toNat : Int))

/-- `fmv.x.d` (44_fd_convert.md rule R481). -/
def execFmvXD (rd rs1 : Reg) (s : State) : Result := s.writeX rd (s.getF rs1) 4

/-- `fmv.d.x` (44_fd_convert.md rule R482). -/
def execFmvDX (rd rs1 : Reg) (s : State) : Result := .next ((s.setF rd (s.getX rs1)).retire 4)

end Sys2Proof.Machine
end

