-- ==== Sys2Proof/Machine/FloatOps.lean ====
section
/-!
DEFINITION. The meanings of F and D: loads, stores, arithmetic, sign injection, minimum and maximum, comparison
(44_fd.md rules R410 to R450).
-/

namespace Sys2Proof.Machine

/-- `flw` (44_fd.md rule R410). -/
def execFlw (rd rs1 : Reg) (imm : BitVec 12) (s : State) : Result := s.loadF32 rd (s.eaImm rs1 imm) 4

/-- `fsw` (44_fd.md rule R412). -/
def execFsw (rs2 rs1 : Reg) (imm : BitVec 12) (s : State) : Result :=
  s.storeTo (s.eaImm rs1 imm) 4 ((s.getFRaw32 rs2).setWidth 64) 4

/-- `fld` (44_fd.md rule R411). -/
def execFld (rd rs1 : Reg) (imm : BitVec 12) (s : State) : Result := s.loadF64 rd (s.eaImm rs1 imm) 4

/-- `fsd` (44_fd.md rule R413). -/
def execFsd (rs2 rs1 : Reg) (imm : BitVec 12) (s : State) : Result := s.storeTo (s.eaImm rs1 imm) 8 (s.getF rs2) 4

/-- `fmadd.s` (44_fd.md rule R425). -/
def execFmaddS (rd rs1 rs2 rs3 : Reg) (rm : BitVec 3) (s : State) : Result :=
  s.rounded (.fmaddS rd rs1 rs2 rs3 rm) rm fun r => s.putS rd (fmtS.fmadd r (s.opS rs1) (s.opS rs2) (s.opS rs3))

/-- `fmadd.d` (44_fd.md rule R426). -/
def execFmaddD (rd rs1 rs2 rs3 : Reg) (rm : BitVec 3) (s : State) : Result :=
  s.rounded (.fmaddD rd rs1 rs2 rs3 rm) rm fun r => s.putD rd (fmtD.fmadd r (s.opD rs1) (s.opD rs2) (s.opD rs3))

/-- `fmsub.s` (44_fd.md rule R427). -/
def execFmsubS (rd rs1 rs2 rs3 : Reg) (rm : BitVec 3) (s : State) : Result :=
  s.rounded (.fmsubS rd rs1 rs2 rs3 rm) rm fun r => s.putS rd (fmtS.fmsub r (s.opS rs1) (s.opS rs2) (s.opS rs3))

/-- `fmsub.d` (44_fd.md rule R428). -/
def execFmsubD (rd rs1 rs2 rs3 : Reg) (rm : BitVec 3) (s : State) : Result :=
  s.rounded (.fmsubD rd rs1 rs2 rs3 rm) rm fun r => s.putD rd (fmtD.fmsub r (s.opD rs1) (s.opD rs2) (s.opD rs3))

/-- `fnmsub.s` (44_fd.md rule R429). -/
def execFnmsubS (rd rs1 rs2 rs3 : Reg) (rm : BitVec 3) (s : State) : Result :=
  s.rounded (.fnmsubS rd rs1 rs2 rs3 rm) rm fun r => s.putS rd (fmtS.fnmsub r (s.opS rs1) (s.opS rs2) (s.opS rs3))

/-- `fnmsub.d` (44_fd.md rule R430). -/
def execFnmsubD (rd rs1 rs2 rs3 : Reg) (rm : BitVec 3) (s : State) : Result :=
  s.rounded (.fnmsubD rd rs1 rs2 rs3 rm) rm fun r => s.putD rd (fmtD.fnmsub r (s.opD rs1) (s.opD rs2) (s.opD rs3))

/-- `fnmadd.s` (44_fd.md rule R431). -/
def execFnmaddS (rd rs1 rs2 rs3 : Reg) (rm : BitVec 3) (s : State) : Result :=
  s.rounded (.fnmaddS rd rs1 rs2 rs3 rm) rm fun r => s.putS rd (fmtS.fnmadd r (s.opS rs1) (s.opS rs2) (s.opS rs3))

/-- `fnmadd.d` (44_fd.md rule R432). -/
def execFnmaddD (rd rs1 rs2 rs3 : Reg) (rm : BitVec 3) (s : State) : Result :=
  s.rounded (.fnmaddD rd rs1 rs2 rs3 rm) rm fun r => s.putD rd (fmtD.fnmadd r (s.opD rs1) (s.opD rs2) (s.opD rs3))

/-- `fadd.s` (44_fd.md rule R414). -/
def execFaddS (rd rs1 rs2 : Reg) (rm : BitVec 3) (s : State) : Result :=
  s.rounded (.faddS rd rs1 rs2 rm) rm fun r => s.putS rd (fmtS.add r (s.opS rs1) (s.opS rs2))

/-- `fadd.d` (44_fd.md rule R415). -/
def execFaddD (rd rs1 rs2 : Reg) (rm : BitVec 3) (s : State) : Result :=
  s.rounded (.faddD rd rs1 rs2 rm) rm fun r => s.putD rd (fmtD.add r (s.opD rs1) (s.opD rs2))

/-- `fsub.s` (44_fd.md rule R416). -/
def execFsubS (rd rs1 rs2 : Reg) (rm : BitVec 3) (s : State) : Result :=
  s.rounded (.fsubS rd rs1 rs2 rm) rm fun r => s.putS rd (fmtS.sub r (s.opS rs1) (s.opS rs2))

/-- `fsub.d` (44_fd.md rule R417). -/
def execFsubD (rd rs1 rs2 : Reg) (rm : BitVec 3) (s : State) : Result :=
  s.rounded (.fsubD rd rs1 rs2 rm) rm fun r => s.putD rd (fmtD.sub r (s.opD rs1) (s.opD rs2))

/-- `fmul.s` (44_fd.md rule R418). -/
def execFmulS (rd rs1 rs2 : Reg) (rm : BitVec 3) (s : State) : Result :=
  s.rounded (.fmulS rd rs1 rs2 rm) rm fun r => s.putS rd (fmtS.mul r (s.opS rs1) (s.opS rs2))

/-- `fmul.d` (44_fd.md rule R419). -/
def execFmulD (rd rs1 rs2 : Reg) (rm : BitVec 3) (s : State) : Result :=
  s.rounded (.fmulD rd rs1 rs2 rm) rm fun r => s.putD rd (fmtD.mul r (s.opD rs1) (s.opD rs2))

/-- `fdiv.s` (44_fd.md rule R420). -/
def execFdivS (rd rs1 rs2 : Reg) (rm : BitVec 3) (s : State) : Result :=
  s.rounded (.fdivS rd rs1 rs2 rm) rm fun r => s.putS rd (fmtS.div r (s.opS rs1) (s.opS rs2))

/-- `fdiv.d` (44_fd.md rule R421). -/
def execFdivD (rd rs1 rs2 : Reg) (rm : BitVec 3) (s : State) : Result :=
  s.rounded (.fdivD rd rs1 rs2 rm) rm fun r => s.putD rd (fmtD.div r (s.opD rs1) (s.opD rs2))

/-- `fsqrt.s` (44_fd.md rule R422). -/
def execFsqrtS (rd rs1 : Reg) (rm : BitVec 3) (s : State) : Result :=
  s.rounded (.fsqrtS rd rs1 rm) rm fun r => s.putS rd (fmtS.sqrt r (s.opS rs1))

/-- `fsqrt.d` (44_fd.md rule R423). -/
def execFsqrtD (rd rs1 : Reg) (rm : BitVec 3) (s : State) : Result :=
  s.rounded (.fsqrtD rd rs1 rm) rm fun r => s.putD rd (fmtD.sqrt r (s.opD rs1))

/-- `fsgnj.s` (44_fd.md rule R433). -/
def execFsgnjS (rd rs1 rs2 : Reg) (s : State) : Result :=
  .next ((s.putS rd (fmtS.sgnj (s.opS rs1) (s.opS rs2), 0)).retire 4)

/-- `fsgnj.d` (44_fd.md rule R434). -/
def execFsgnjD (rd rs1 rs2 : Reg) (s : State) : Result :=
  .next ((s.putD rd (fmtD.sgnj (s.opD rs1) (s.opD rs2), 0)).retire 4)

/-- `fsgnjn.s` (44_fd.md rule R435). -/
def execFsgnjnS (rd rs1 rs2 : Reg) (s : State) : Result :=
  .next ((s.putS rd (fmtS.sgnjn (s.opS rs1) (s.opS rs2), 0)).retire 4)

/-- `fsgnjn.d` (44_fd.md rule R436). -/
def execFsgnjnD (rd rs1 rs2 : Reg) (s : State) : Result :=
  .next ((s.putD rd (fmtD.sgnjn (s.opD rs1) (s.opD rs2), 0)).retire 4)

/-- `fsgnjx.s` (44_fd.md rule R437). -/
def execFsgnjxS (rd rs1 rs2 : Reg) (s : State) : Result :=
  .next ((s.putS rd (fmtS.sgnjx (s.opS rs1) (s.opS rs2), 0)).retire 4)

/-- `fsgnjx.d` (44_fd.md rule R438). -/
def execFsgnjxD (rd rs1 rs2 : Reg) (s : State) : Result :=
  .next ((s.putD rd (fmtD.sgnjx (s.opD rs1) (s.opD rs2), 0)).retire 4)

/-- `fmin.s` (44_fd.md rule R440). -/
def execFminS (rd rs1 rs2 : Reg) (s : State) : Result :=
  .next ((s.putS rd (fmtS.min (s.opS rs1) (s.opS rs2))).retire 4)

/-- `fmin.d` (44_fd.md rule R441). -/
def execFminD (rd rs1 rs2 : Reg) (s : State) : Result :=
  .next ((s.putD rd (fmtD.min (s.opD rs1) (s.opD rs2))).retire 4)

/-- `fmax.s` (44_fd.md rule R442). -/
def execFmaxS (rd rs1 rs2 : Reg) (s : State) : Result :=
  .next ((s.putS rd (fmtS.max (s.opS rs1) (s.opS rs2))).retire 4)

/-- `fmax.d` (44_fd.md rule R443). -/
def execFmaxD (rd rs1 rs2 : Reg) (s : State) : Result :=
  .next ((s.putD rd (fmtD.max (s.opD rs1) (s.opD rs2))).retire 4)

/-- `feq.s` (44_fd.md rule R445). -/
def execFeqS (rd rs1 rs2 : Reg) (s : State) : Result :=
  .next ((s.putFlag rd (fmtS.eq (s.opS rs1) (s.opS rs2))).retire 4)

/-- `feq.d` (44_fd.md rule R446). -/
def execFeqD (rd rs1 rs2 : Reg) (s : State) : Result :=
  .next ((s.putFlag rd (fmtD.eq (s.opD rs1) (s.opD rs2))).retire 4)

/-- `flt.s` (44_fd.md rule R447). -/
def execFltS (rd rs1 rs2 : Reg) (s : State) : Result :=
  .next ((s.putFlag rd (fmtS.lt (s.opS rs1) (s.opS rs2))).retire 4)

/-- `flt.d` (44_fd.md rule R448). -/
def execFltD (rd rs1 rs2 : Reg) (s : State) : Result :=
  .next ((s.putFlag rd (fmtD.lt (s.opD rs1) (s.opD rs2))).retire 4)

/-- `fle.s` (44_fd.md rule R449). -/
def execFleS (rd rs1 rs2 : Reg) (s : State) : Result :=
  .next ((s.putFlag rd (fmtS.le (s.opS rs1) (s.opS rs2))).retire 4)

/-- `fle.d` (44_fd.md rule R450). -/
def execFleD (rd rs1 rs2 : Reg) (s : State) : Result :=
  .next ((s.putFlag rd (fmtD.le (s.opD rs1) (s.opD rs2))).retire 4)

end Sys2Proof.Machine
end

