-- ==== Sys2Proof/Machine/MulDiv.lean ====
section
/-!
DEFINITION. The meanings of M, integer multiply and divide (42_m.md rules R334 to R347).
-/

namespace Sys2Proof.Machine

/-- `mul` (42_m.md rule R334). -/
def execMul (rd rs1 rs2 : Reg) (s : State) : Result := s.writeX rd (s.getX rs1 * s.getX rs2) 4

/-- `mulh` (42_m.md rule R335). -/
def execMulh (rd rs1 rs2 : Reg) (s : State) : Result := s.writeX rd (s.highHalf (s.intX rs1 * s.intX rs2)) 4

/-- `mulhsu` (42_m.md rule R336). -/
def execMulhsu (rd rs1 rs2 : Reg) (s : State) : Result :=
  s.writeX rd (s.highHalf (s.intX rs1 * ((s.natX rs2 : Nat) : Int))) 4

/-- `mulhu` (42_m.md rule R337). -/
def execMulhu (rd rs1 rs2 : Reg) (s : State) : Result :=
  s.writeX rd (s.highHalf (((s.natX rs1 * s.natX rs2 : Nat)) : Int)) 4

/-- `div` (42_m.md rule R340). -/
def execDiv (rd rs1 rs2 : Reg) (s : State) : Result :=
  s.writeX rd (BitVec.ofInt 64 (quotS (s.intX rs1) (s.intX rs2))) 4

/-- `divu` (42_m.md rule R341). -/
def execDivu (rd rs1 rs2 : Reg) (s : State) : Result :=
  s.writeX rd (BitVec.ofNat 64 (quotU s.cfg.xlen.bits (s.natX rs1) (s.natX rs2))) 4

/-- `rem` (42_m.md rule R342). -/
def execRem (rd rs1 rs2 : Reg) (s : State) : Result :=
  s.writeX rd (BitVec.ofInt 64 (remS (s.intX rs1) (s.intX rs2))) 4

/-- `remu` (42_m.md rule R343). -/
def execRemu (rd rs1 rs2 : Reg) (s : State) : Result :=
  s.writeX rd (BitVec.ofNat 64 (remU (s.natX rs1) (s.natX rs2))) 4

/-- `mulw` (42_m.md rule R338). -/
def execMulw (rd rs1 rs2 : Reg) (s : State) : Result := s.writeX rd (s.sextW (s.getW rs1 * s.getW rs2)) 4

/-- `divw` (42_m.md rule R344). -/
def execDivw (rd rs1 rs2 : Reg) (s : State) : Result :=
  s.writeX rd (s.sextW (BitVec.ofInt 32 (quotS (s.getW rs1).toInt (s.getW rs2).toInt))) 4

/-- `divuw` (42_m.md rule R345). -/
def execDivuw (rd rs1 rs2 : Reg) (s : State) : Result :=
  s.writeX rd (s.sextW (BitVec.ofNat 32 (quotU 32 (s.getW rs1).toNat (s.getW rs2).toNat))) 4

/-- `remw` (42_m.md rule R346). -/
def execRemw (rd rs1 rs2 : Reg) (s : State) : Result :=
  s.writeX rd (s.sextW (BitVec.ofInt 32 (remS (s.getW rs1).toInt (s.getW rs2).toInt))) 4

/-- `remuw` (42_m.md rule R347). -/
def execRemuw (rd rs1 rs2 : Reg) (s : State) : Result :=
  s.writeX rd (s.sextW (BitVec.ofNat 32 (remU (s.getW rs1).toNat (s.getW rs2).toNat))) 4

end Sys2Proof.Machine
end

