-- ==== Sys2Proof/Machine/System.lean ====
section
/-!
DEFINITION. The meanings of ordering, environment calls, the CSR instructions and the privileged ones (40_rv32i.md
rules R276 to R286; 47_privileged.md rules R621 to R624).
-/

namespace Sys2Proof.Machine

/-- The cached translation is one that `sfence.vma rs1, rs2` selects: the tests are on the register numbers
(47_privileged.md rule R624; log 19). -/
def State.fenced (s : State) (rs1 rs2 : Reg) (e : TlbEntry) : Bool :=
  (rs1 == 0 || (s.getX rs1).toNat / pageBytes s.cfg.xlen e.level == e.page.toNat / pageBytes s.cfg.xlen e.level) &&
  (rs2 == 0 || (decide (e.asid = (s.getX rs2).toNat) && !pteG e.pte))

/-- Discards the cached translations that `sfence.vma` selects (47_privileged.md rule R624). -/
def State.flushTlb (s : State) (rs1 rs2 : Reg) : State := { s with tlb := s.tlb.filter (fun e => !s.fenced rs1 rs2 e) }

/-- `fence` (40_rv32i.md rule R276). With one hart and no observing device it only advances `pc`
(log 15). -/
def execFence (_pred _succ : BitVec 4) (s : State) : Result := .next (s.retire 4)

/-- `fence.i` (40_rv32i.md rule R277). Fetches see memory again. -/
def execFenceI (s : State) : Result := .next ({ s with staleFetch := [] }.retire 4)

/-- `ecall` (40_rv32i.md rule R278). -/
def execEcall (s : State) : Result :=
  .next (s.raise ⟨match s.priv with | .u => .ecallU | .s => .ecallS | .m => .ecallM, 0⟩)

/-- `ebreak` (40_rv32i.md rule R279). -/
def execEbreak (s : State) : Result := .next (s.raise ⟨.breakpoint, 0⟩)

/-- `csrrw` (40_rv32i.md rule R280). -/
def execCsrrw (rd : Reg) (csr : BitVec 12) (rs1 : Reg) (s : State) : Result :=
  s.csrAccess (.csrrw rd csr rs1) rd csr (some fun _ => s.getX rs1)

/-- `csrrs` (40_rv32i.md rule R281). -/
def execCsrrs (rd : Reg) (csr : BitVec 12) (rs1 : Reg) (s : State) : Result :=
  s.csrAccess (.csrrs rd csr rs1) rd csr (if rs1 = 0 then none else some fun t => t ||| s.getX rs1)

/-- `csrrc` (40_rv32i.md rule R282). -/
def execCsrrc (rd : Reg) (csr : BitVec 12) (rs1 : Reg) (s : State) : Result :=
  s.csrAccess (.csrrc rd csr rs1) rd csr (if rs1 = 0 then none else some fun t => t &&& ~~~s.getX rs1)

/-- `csrrwi` (40_rv32i.md rule R283). -/
def execCsrrwi (rd : Reg) (csr : BitVec 12) (zimm : BitVec 5) (s : State) : Result :=
  s.csrAccess (.csrrwi rd csr zimm) rd csr (some fun _ => zimm.setWidth 64)

/-- `csrrsi` (40_rv32i.md rule R284). -/
def execCsrrsi (rd : Reg) (csr : BitVec 12) (zimm : BitVec 5) (s : State) : Result :=
  s.csrAccess (.csrrsi rd csr zimm) rd csr (if zimm = 0 then none else some fun t => t ||| zimm.setWidth 64)

/-- `csrrci` (40_rv32i.md rule R285). -/
def execCsrrci (rd : Reg) (csr : BitVec 12) (zimm : BitVec 5) (s : State) : Result :=
  s.csrAccess (.csrrci rd csr zimm) rd csr (if zimm = 0 then none else some fun t => t &&& ~~~(zimm.setWidth 64))

/-- `mret` (47_privileged.md rule R621). -/
def execMret (s : State) : Result := if s.priv = .m then .next s.returnM else .next (s.illegal .mret)

/-- `sret` (47_privileged.md rule R622). -/
def execSret (s : State) : Result :=
  if s.cfg.modes.hasS = true ∧ s.priv ≠ .u then .next s.returnS else .next (s.illegal .sret)

/-- `wfi` (47_privileged.md rule R623). It completes at once where `WFI_NOP` is set or an enabled interrupt is
pending; else the hart waits (`State.front`). -/
def execWfi (s : State) : Result :=
  if s.priv = .u then .next (s.illegal .wfi)
  else if s.cfg.wfiNop = true ∨ s.wakes = true then .next (s.retire 4)
  else .next { s with waiting := true }

/-- `sfence.vma` (47_privileged.md rule R624). -/
def execSfenceVma (rs1 rs2 : Reg) (s : State) : Result :=
  if s.cfg.modes.hasS = true ∧ s.priv ≠ .u then .next ((s.flushTlb rs1 rs2).retire 4)
  else .next (s.illegal (.sfenceVma rs1 rs2))

end Sys2Proof.Machine
end

