-- ==== Sys2Proof/Machine/Step.lean ====
section
/-!
DEFINITION. One step of the machine (60_exceptions.md rule R730), and a state whose next step runs a given word.
-/

namespace Sys2Proof.Machine

/-- One step: an instruction, or a trap taken, or a wait; then the environment's turn (60_exceptions.md rules R730,
R745). -/
def step (s : State) : Host.Outcome State Fault Refusal :=
  match s.front with
  | .settled t => .next t.tick
  | .execute t i => ticked (exec i t)

/-- The state with the instruction of bits `w` (`nbits` of them from the table, the others zero) where the next step
fetches. The hart does not wait; a word that is an instruction of RV32 only makes the hart an RV32 one (log 11). -/
def State.withFetchWord (s : State) (nbits w : Nat) : State :=
  { s with waiting := false, cfg := s.configFor (tableBytes nbits w) }.placeBytes (tableBytes nbits w)

end Sys2Proof.Machine
end

