-- ==== Sys2Proof/Machine/VectorSyntax.lean ====
section
/-!
DEFINITION. The vector instructions of the draft V extension as abstract instructions, one constructor for each of the 53
names of 46_v.md rule R571. They have no encoding (rule R570), so no fetch yields one; `Sys2Proof.Instr` has the
instructions that have one.
-/

namespace Sys2Proof.Machine

/-- The number of a predicate register, `vp0` to `vp7` (10_state.md rule R66). -/
abbrev PReg := BitVec 3

/-- A scalar operand; which file it comes from follows the register named (46_v.md rule R572). -/
inductive VScalar where
  | x (r : Reg)
  | f (r : Reg)
  deriving DecidableEq, Repr

/-- A source operand: a vector register, or a scalar used for every element (46_v.md rule R572). -/
inductive VOperand where
  | vec (r : Reg)
  | scalar (r : VScalar)
  deriving DecidableEq, Repr

/-- The predicate register that can mask: `vp0` or `vp1` (46_v.md rule R573). -/
inductive VMaskReg where
  | vp0
  | vp1
  deriving DecidableEq, Repr

/-- The mask of an instruction; with none written, every element is active (46_v.md rule R574 item a). -/
inductive VMask where
  | all
  | by (p : VMaskReg)
  deriving DecidableEq, Repr

/-- One source: the form `.v` or, for `vmov`, `.s` (46_v.md rule R1030). -/
inductive VOne where
  | v (vs1 : Reg)
  | s (rs1 : VScalar)
  deriving DecidableEq, Repr

/-- The operand forms of a symmetric operation (46_v.md rule R572). -/
inductive VPair where
  | vv (vs1 vs2 : Reg)
  | vs (vs1 : Reg) (rs : VScalar)
  deriving DecidableEq, Repr

/-- The operand forms of an operation that is not symmetric (46_v.md rule R572). -/
inductive VPairSv where
  | vv (vs1 vs2 : Reg)
  | vs (vs1 : Reg) (rs : VScalar)
  | sv (rs : VScalar) (vs2 : Reg)
  deriving DecidableEq, Repr

/-- The operand forms of a fused multiply-add (46_v.md rule R572). -/
inductive VTriple where
  | vvv (vs1 vs2 vs3 : Reg)
  | vvs (vs1 vs2 : Reg) (rs : VScalar)
  | vsv (vs1 : Reg) (rs : VScalar) (vs3 : Reg)
  | vss (vs1 : Reg) (rs2 rs3 : VScalar)
  deriving DecidableEq, Repr

/-- The vector instructions (46_v.md rules R571, R1001 to R1053). -/
inductive VInstr where
  | setvl (rd rs1 : Reg)
  | vmulh (vd : Reg) (src : VPair) (m : VMask)
  | vrem (vd : Reg) (src : VPairSv) (m : VMask)
  | vsll (vd : Reg) (src : VPairSv) (m : VMask)
  | vsrl (vd : Reg) (src : VPairSv) (m : VMask)
  | vsra (vd : Reg) (src : VPairSv) (m : VMask)
  | vld (vd rs1 : Reg) (imm : BitVec 7) (m : VMask)
  | vlds (vd rs1 rs2 : Reg) (m : VMask)
  | vldx (vd rs1 vs2 : Reg) (m : VMask)
  | vst (vs rs1 : Reg) (imm : BitVec 7) (m : VMask)
  | vsts (vs rs1 rs2 : Reg) (m : VMask)
  | vstx (vs rs1 vs2 : Reg) (m : VMask)
  | amoswap (vd rs1 vs2 : Reg)
  | amoadd (vd rs1 vs2 : Reg)
  | amoxor (vd rs1 vs2 : Reg)
  | amoand (vd rs1 vs2 : Reg)
  | amoor (vd rs1 vs2 : Reg)
  | amomin (vd rs1 vs2 : Reg)
  | amomax (vd rs1 vs2 : Reg)
  | vpeq (vpd : PReg) (src : VPair) (m : VMask)
  | vpne (vpd : PReg) (src : VPair) (m : VMask)
  | vplt (vpd : PReg) (src : VPairSv) (m : VMask)
  | vpge (vpd : PReg) (src : VPairSv) (m : VMask)
  | vpand (vpd vps1 vps2 : PReg)
  | vpandn (vpd vps1 vps2 : PReg)
  | vpor (vpd vps1 vps2 : PReg)
  | vpxor (vpd vps1 vps2 : PReg)
  | vpnot (vpd vps1 : PReg)
  | vpswap (vpd vps1 : PReg)
  | vmov (vd : Reg) (src : VOne) (m : VMask)
  | vcvt (vd vs1 : Reg) (m : VMask)
  | vadd (vd : Reg) (src : VPair) (m : VMask)
  | vsub (vd : Reg) (src : VPairSv) (m : VMask)
  | vmul (vd : Reg) (src : VPair) (m : VMask)
  | vdiv (vd : Reg) (src : VPairSv) (m : VMask)
  | vsqrt (vd vs1 : Reg) (m : VMask)
  | vfmadd (vd : Reg) (src : VTriple) (m : VMask)
  | vfmsub (vd : Reg) (src : VTriple) (m : VMask)
  | vfnmsub (vd : Reg) (src : VTriple) (m : VMask)
  | vfnmadd (vd : Reg) (src : VTriple) (m : VMask)
  | vsgnj (vd : Reg) (src : VPairSv) (m : VMask)
  | vsgnjn (vd : Reg) (src : VPairSv) (m : VMask)
  | vsgnjx (vd : Reg) (src : VPairSv) (m : VMask)
  | vmin (vd : Reg) (src : VPair) (m : VMask)
  | vmax (vd : Reg) (src : VPair) (m : VMask)
  | vxor (vd : Reg) (src : VPair) (m : VMask)
  | vor (vd : Reg) (src : VPair) (m : VMask)
  | vand (vd : Reg) (src : VPair) (m : VMask)
  | vclass (vd vs1 : Reg) (m : VMask)
  | vsetdcfg (rs1 : Reg)
  | vextract (vd vs1 rs2 : Reg) (m : VMask)
  | vmerge (p : VMaskReg) (vd : Reg) (src : VPairSv)
  | vselect (vd : Reg) (src : VPairSv) (m : VMask)
  deriving DecidableEq, Repr

end Sys2Proof.Machine
end

