-- ==== Sys2Proof/Machine/Vector.lean ====
section
/-!
DEFINITION. The vector unit: element types, the maximum vector length, elements and masks, the conversions, and a meaning
for every vector instruction whose effect the spec gives (46_v.md; 10_state.md rules R63 to R66). What the draft leaves
open beyond 92_eei_decisions.md D29 is log 16.
-/

namespace Sys2Proof.Machine

/-! ## Element types and the maximum vector length (10_state.md rules R64, R65) -/

/-- An element type: binary16, 32 or 64, or an integer of a width in bits. -/
inductive EType where
  | float (f : FFmt)
  | signed (width : Nat)
  | unsigned (width : Nat)
  deriving DecidableEq, Repr

/-- The width of an element in bits. -/
def EType.bits : EType → Nat
  | .float f => f.expBits + f.fracBits + 1
  | .signed w => w
  | .unsigned w => w

/-- The width of an element in bytes. -/
def EType.bytes (t : EType) : Nat := t.bits / 8

/-- The type is a floating-point one. -/
def EType.isFloat : EType → Bool
  | .float _ => true
  | .signed _ => false
  | .unsigned _ => false

/-- The eleven types that the spec defines (10_state.md rule R64). -/
def etypeOf (v : BitVec 5) : Option EType :=
  if v = 0b10100#5 then some (.signed 8)
  else if v = 0b11100#5 then some (.unsigned 8)
  else if v = 0b01101#5 then some (.float fmtH)
  else if v = 0b10101#5 then some (.signed 16)
  else if v = 0b11101#5 then some (.unsigned 16)
  else if v = 0b01110#5 then some (.float fmtS)
  else if v = 0b10110#5 then some (.signed 32)
  else if v = 0b11110#5 then some (.unsigned 32)
  else if v = 0b01111#5 then some (.float fmtD)
  else if v = 0b10111#5 then some (.signed 64)
  else if v = 0b11111#5 then some (.unsigned 64)
  else none

/-- The hart's width and extensions allow the type: 64-bit integers with XLEN = 64, F64 with D, the other floats with F
(10_state.md rule R64, 46_v.md rule R578). -/
def EType.allowed (c : Config) : EType → Bool
  | .float f => if f = fmtD then c.ext.d else c.hasF
  | .signed w => decide (w ≤ c.xlen.bits)
  | .unsigned w => decide (w ≤ c.xlen.bits)

/-- The types that an implementation with V and F must support: F16 and F32 (10_state.md rule R64). -/
def mustSupport (c : Config) (v : BitVec 5) : Bool := c.hasF && (v == 0b01101#5 || v == 0b01110#5)

/-- The type that a `vtype` value names on this hart: of the defined ones, those that every implementation with F supports
and those that this one lists (`Config.vtypes`), as far as its width and extensions allow. -/
def supportedType (c : Config) (v : BitVec 5) : Option EType :=
  if mustSupport c v || c.vtypes.contains v then (etypeOf v).filter (EType.allowed c) else none

/-- The type of a vector register; none when the register is disabled, or of a type that is undefined or that the hart
lacks, and using it is an illegal instruction (46_v.md rule R574 item h). -/
def State.etype (s : State) (r : Reg) : Option EType := supportedType s.cfg (s.vtype.get r.toFin)

/-- The element bytes of the enabled registers together; none where an enabled register has an undefined type. -/
def elementBytes : List (BitVec 5) → Option Nat
  | [] => some 0
  | v :: vs =>
    match elementBytes vs with
    | none => none
    | some n => if v = 0 then some n else (etypeOf v).map fun t => t.bytes + n

/-- `mvl` (10_state.md rule R65). -/
def State.mvl (s : State) : Nat :=
  match elementBytes s.vtype.toList with
  | none => Config.freeMvl s.vcfgd
  | some n => if n = 0 then Config.freeMvl s.vcfgd else s.cfg.vbytes / n

/-! ## Elements and predicate bits -/

/-- The bits of an element of type `t`. -/
def EType.cut (t : EType) (v : Word) : Word := v &&& BitVec.ofNat 64 (2 ^ t.bits - 1)

/-- Element i of a vector register: the one written since the last `vsetdcfg`, or else what that left there
(46_v.md rule R574 item g). -/
def State.elem (s : State) (r : Reg) (i : Nat) : Word :=
  match cellFind i (s.vregs.get r.toFin) with
  | some v => v
  | none =>
    match s.vfill with
    | none => 0
    | some k => Config.freeVectorElem k r.toNat i

/-- Writes element i of a vector register. -/
def State.setElem (s : State) (r : Reg) (i : Nat) (v : Word) : State :=
  { s with vregs := s.vregs.set r.toNat (cellPut i v (s.vregs.get r.toFin)) r.isLt }

/-- Bit i of a predicate register. -/
def State.pbit (s : State) (p : PReg) (i : Nat) : Bool :=
  match cellFind i (s.vp.get p.toFin) with
  | some b => b
  | none =>
    match s.vfill with
    | none => false
    | some k => Config.freePredicateBit k p.toNat i

/-- Writes bit i of a predicate register. -/
def State.setPbit (s : State) (p : PReg) (i : Nat) (b : Bool) : State :=
  { s with vp := s.vp.set p.toNat (cellPut i b (s.vp.get p.toFin)) p.isLt }

/-- The predicate register is enabled (10_state.md rule R66). -/
def State.pOn (s : State) (p : PReg) : Bool := s.vpOn.get p.toFin

/-- The number of a mask register. -/
def VMaskReg.reg : VMaskReg → PReg
  | .vp0 => 0
  | .vp1 => 1

/-- The mask can be used. -/
def State.maskOk (s : State) : VMask → Bool
  | .all => true
  | .by p => s.pOn p.reg

/-- Element i is active (46_v.md rules R573, R574). -/
def State.maskBit (s : State) (m : VMask) (i : Nat) : Bool :=
  match m with
  | .all => true
  | .by p => s.pbit p.reg i

/-! ## Values and conversions (46_v.md rules R574 item c, R1031) -/

/-- The integer that the bits of an integer element stand for; 0 for a floating-point type. -/
def EType.int (t : EType) (v : Word) : Int :=
  match t with
  | .float _ => 0
  | .signed w => (v.setWidth w).toInt
  | .unsigned w => ((v.setWidth w).toNat : Int)

/-- An integer as an element: modulo the width (46_v.md section 2). -/
def EType.ofInt (t : EType) (v : Int) : Word := t.cut (BitVec.ofInt 64 v)

/-- A floating-point result as an element. -/
def ofFRes (r : FRes) : Word × BitVec 5 := (BitVec.ofNat 64 r.1, r.2)

/-- An integer result as an element. -/
def EType.ofIntRes (t : EType) (v : Int) : Word × BitVec 5 := (t.ofInt v, 0)

/-- An element of type `src` as one of type `dst`, with the flags it raises (46_v.md rule R1031; 44_fd_convert.md rules
R458, R459). DESIGN CHOICE, log 16: a float saturates at the range of the element's own type, 8 and 16 bits too, for which
rule R458 has no row; an integer beyond the range of F16 overflows as a rounded result does; between equal types nothing
is converted and no flag raised. -/
def convertElem (src dst : EType) (rm : Rm) (v : Word) : Word × BitVec 5 :=
  if src = dst then (v, 0)
  else
    match src, dst with
    | .float f, .float g => ofFRes (f.convert g rm v.toNat)
    | .float f, .signed w =>
      let r := f.toInt rm (-(2 : Int) ^ (w - 1)) ((2 : Int) ^ (w - 1) - 1) v.toNat
      (dst.ofInt r.1, r.2)
    | .float f, .unsigned w =>
      let r := f.toInt rm 0 ((2 : Int) ^ w - 1) v.toNat
      (dst.ofInt r.1, r.2)
    | .signed w, .float g => ofFRes (g.ofInt rm ((EType.signed w).int v))
    | .unsigned w, .float g => ofFRes (g.ofInt rm ((EType.unsigned w).int v))
    | .signed w, .signed _ => (dst.ofInt ((EType.signed w).int v), 0)
    | .signed w, .unsigned _ => (dst.ofInt ((EType.signed w).int v), 0)
    | .unsigned w, .signed _ => (dst.ofInt ((EType.unsigned w).int v), 0)
    | .unsigned w, .unsigned _ => (dst.ofInt ((EType.unsigned w).int v), 0)

/-- The format of the number in `f[r]`, from which an f scalar is converted: a NaN-boxed value is a single, anything else
in a 64-bit register a double (46_v.md rule R573; 10_state.md rule R31). DESIGN CHOICE, log 16. -/
def State.scalarFmt (s : State) (r : Reg) : FFmt :=
  if s.flen64 && (s.getF r).extractLsb' 32 32 != 0xffffffff#32 then fmtD else fmtS

/-- The bits of an f scalar in its format. -/
def State.scalarBits (s : State) (r : Reg) : Word :=
  if s.scalarFmt r = fmtD then s.getF r else (s.getFRaw32 r).setWidth 64

/-- The value of an operand for element i, converted to the type `t` (46_v.md rules R572, R573, R574 item c). A scalar of
an x register is a signed integer of XLEN bits. DESIGN CHOICE, log 16. -/
def State.source (s : State) (o : VOperand) (i : Nat) (t : EType) (rm : Rm) : Word × BitVec 5 :=
  match o with
  | .vec r =>
    match s.etype r with
    | none => (0, 0)
    | some e => convertElem e t rm (e.cut (s.elem r i))
  | .scalar (.x r) => convertElem (.signed 64) t rm (s.getSx r)
  | .scalar (.f r) => convertElem (.float (s.scalarFmt r)) t rm (s.scalarBits r)

/-- The operand can be used (46_v.md rule R574 item h). -/
def State.operandOk (s : State) : VOperand → Bool
  | .vec r => (s.etype r).isSome
  | .scalar (.x _) => true
  | .scalar (.f _) => s.cfg.hasF

/-- Bringing the operand to the type `t` rounds. -/
def State.operandRounds (s : State) (t : EType) : VOperand → Bool
  | .vec r =>
    match s.etype r with
    | none => false
    | some e => decide (e ≠ t) && (e.isFloat || t.isFloat)
  | .scalar (.x _) => t.isFloat
  | .scalar (.f r) => decide (EType.float (s.scalarFmt r) ≠ t)

/-- The operands of the forms. -/
def VOne.op : VOne → VOperand
  | .v r => .vec r
  | .s r => .scalar r
def VPair.a : VPair → VOperand
  | .vv x _ => .vec x
  | .vs x _ => .vec x
def VPair.b : VPair → VOperand
  | .vv _ y => .vec y
  | .vs _ y => .scalar y
def VPairSv.a : VPairSv → VOperand
  | .vv x _ => .vec x
  | .vs x _ => .vec x
  | .sv x _ => .scalar x
def VPairSv.b : VPairSv → VOperand
  | .vv _ y => .vec y
  | .vs _ y => .scalar y
  | .sv _ y => .vec y
/-- The vector register of a pair, the first if there are two: its type is the one a comparison is made in. DESIGN
CHOICE, log 16. -/
def VPairSv.vec : VPairSv → Reg
  | .vv x _ => x
  | .vs x _ => x
  | .sv _ y => y
def VPair.sv : VPair → VPairSv
  | .vv x y => .vv x y
  | .vs x y => .vs x y
def VTriple.a : VTriple → VOperand
  | .vvv x _ _ => .vec x
  | .vvs x _ _ => .vec x
  | .vsv x _ _ => .vec x
  | .vss x _ _ => .vec x
def VTriple.b : VTriple → VOperand
  | .vvv _ y _ => .vec y
  | .vvs _ y _ => .vec y
  | .vsv _ y _ => .scalar y
  | .vss _ y _ => .scalar y
def VTriple.c : VTriple → VOperand
  | .vvv _ _ z => .vec z
  | .vvs _ _ z => .scalar z
  | .vsv _ _ z => .vec z
  | .vss _ _ z => .scalar z

/-! ## The element loop (46_v.md rule R574) -/

/-- A vector instruction that is illegal here (46_v.md rule R574 item h). It has no bits to give as the trap value: free
value, log 10. That it is illegal on a hart without V: DESIGN CHOICE, log 16. -/
def State.vIllegal (s : State) : State :=
  { s with free := s.free + 1 }.raise ⟨.illegalInstruction, (Config.freeVectorTval s.free).setWidth 64⟩

/-- A vector instruction of 4 bytes (46_v.md rule R570): illegal, or done. On a hart without V, on which the spec says
nothing, it is illegal: DESIGN CHOICE, log 16. -/
def State.vRun (s : State) (legal : Bool) (body : State) : Result :=
  if s.cfg.ext.v && legal then .next (body.retire 4) else .next s.vIllegal

/-- `if mask[i] then dest[i] <- op(i)` for i from 0 to `vl − 1`; sources are read from the state before, flags
accumulate (46_v.md rules R574, R579). An operation that gives nothing leaves the element. DESIGN CHOICE, log 16: the
bound is `vl` alone, also where `vsetdcfg` has made `mvl` smaller than it, so that the elements from `mvl` on are there to
read and write; and `vselect` or `vextract` into its own source reads the elements that were there before it. -/
def State.elementwise (s : State) (m : VMask) (vd : Reg) (op : Nat → Option (Word × BitVec 5)) : State :=
  (List.range s.vl).foldl
    (fun t i =>
      if s.maskBit m i then
        match op i with
        | none => t
        | some r => (t.setElem vd i r.1).accrue r.2
      else t) s

/-- An elementwise operation on three values of one type, the last ones repeated where it needs fewer; none where the
type has no such operation. `rounds` tells that it rounds in a floating-point type. -/
structure VOp where
  rounds : Bool
  run : EType → Option (Rm → Word → Word → Word → Word × BitVec 5)

/-- The rounding mode of the elements: `fcsr.frm` (46_v.md rule R574 item d). -/
def State.elemRm (s : State) : Rm := (rmOfCode s.frm).getD .rne

/-- A reserved `fcsr.frm` makes the instruction illegal when it rounds (44_fd.md rule R404). -/
def State.elemRmOk (s : State) (rounds : Bool) : Bool := !rounds || (rmOfCode s.frm).isSome

/-- Each operand converted to `t`, then the operation, with all flags (46_v.md rule R574 items c, d). -/
def State.applyOp (s : State) (t : EType) (a b c : VOperand) (i : Nat)
    (f : Rm → Word → Word → Word → Word × BitVec 5) : Word × BitVec 5 :=
  let x := s.source a i t s.elemRm
  let y := s.source b i t s.elemRm
  let z := s.source c i t s.elemRm
  let r := f s.elemRm x.1 y.1 z.1
  (r.1, x.2 ||| y.2 ||| z.2 ||| r.2)

/-- An elementwise operation on operands a, b, c in the type of `vd` (46_v.md section 2). -/
def State.vOp (s : State) (op : VOp) (vd : Reg) (a b c : VOperand) (m : VMask) : Result :=
  match s.etype vd with
  | none => .next s.vIllegal
  | some t =>
    match op.run t with
    | none => .next s.vIllegal
    | some f =>
      s.vRun
        (s.maskOk m && s.operandOk a && s.operandOk b && s.operandOk c &&
          s.elemRmOk ((op.rounds && t.isFloat) || s.operandRounds t a || s.operandRounds t b || s.operandRounds t c))
        (s.elementwise m vd fun i => some (s.applyOp t a b c i f))

/-! ## The operations (46_v.md rules R1002 to R1049) -/

/-- An operation with a meaning for integers, as integers, and one for floating point. -/
def arithOp (int : Int → Int → Int → Int) (flt : FFmt → Rm → Nat → Nat → Nat → FRes) : VOp where
  rounds := true
  run := fun t => some fun rm x y z =>
    match t with
    | .float f => ofFRes (flt f rm x.toNat y.toNat z.toNat)
    | .signed w => (EType.signed w).ofIntRes (int ((EType.signed w).int x) ((EType.signed w).int y) ((EType.signed w).int z))
    | .unsigned w =>
      (EType.unsigned w).ofIntRes (int ((EType.unsigned w).int x) ((EType.unsigned w).int y) ((EType.unsigned w).int z))

/-- An operation of integers only, told apart by signedness and width. -/
def intOp (signed : Nat → Int → Int → Int) (unsigned : Nat → Int → Int → Int) : VOp where
  rounds := false
  run := fun t =>
    match t with
    | .float _ => none
    | .signed w => some fun _ x y _ => t.ofIntRes (signed w (t.int x) (t.int y))
    | .unsigned w => some fun _ x y _ => t.ofIntRes (unsigned w (t.int x) (t.int y))

/-- An operation of floating-point elements only. -/
def floatOp (rounds : Bool) (flt : FFmt → Rm → Nat → Nat → FRes) : VOp where
  rounds := rounds
  run := fun t =>
    match t with
    | .float f => some fun rm x y _ => ofFRes (flt f rm x.toNat y.toNat)
    | .signed _ => none
    | .unsigned _ => none

/-- An operation on the bits of elements of any type. -/
def bitsOp (f : Word → Word → Word) : VOp where
  rounds := false
  run := fun t => some fun _ x y _ => (t.cut (f x y), 0)

/-- Division of integers as `div` and `divu` (42_m.md rule R332), of floating-point elements as `fdiv`. -/
def divOp : VOp where
  rounds := true
  run := fun t => some fun rm x y _ =>
    match t with
    | .float f => ofFRes (f.div rm x.toNat y.toNat)
    | .signed w => t.ofIntRes (quotS ((EType.signed w).int x) ((EType.signed w).int y))
    | .unsigned w => t.ofIntRes ((quotU w (x.setWidth w).toNat (y.setWidth w).toNat : Nat) : Int)

/-- The smaller or the larger of two integers, by the type, or of two floating-point values. -/
def pickOp (int : Int → Int → Int) (flt : FFmt → Nat → Nat → FRes) : VOp where
  rounds := false
  run := fun t => some fun _ x y _ =>
    match t with
    | .float f => ofFRes (flt f x.toNat y.toNat)
    | .signed w => t.ofIntRes (int ((EType.signed w).int x) ((EType.signed w).int y))
    | .unsigned w => t.ofIntRes (int ((EType.unsigned w).int x) ((EType.unsigned w).int y))

/-- The amount of a shift: the low bits of the second operand (46_v.md rule R1004). -/
def shiftAmount (w : Nat) (b : Int) : Nat := (b % (w : Int)).toNat

def mulhOp : VOp := intOp (fun w a b => a * b / (2 : Int) ^ w) (fun w a b => a * b / (2 : Int) ^ w)
def remOp : VOp := intOp (fun _ a b => remS a b) (fun _ a b => remS a b)
def sllOp : VOp := intOp (fun w a b => a * (2 : Int) ^ shiftAmount w b) (fun w a b => a * (2 : Int) ^ shiftAmount w b)
def srlOp : VOp :=
  intOp (fun w a b => a % (2 : Int) ^ w / (2 : Int) ^ shiftAmount w b) (fun w a b => a / (2 : Int) ^ shiftAmount w b)
/-- The sign bit shifted in is bit width − 1, whatever the type's signedness (46_v.md rule R1006). -/
def sraOp : VOp :=
  intOp (fun w a b => a / (2 : Int) ^ shiftAmount w b)
    (fun w a b => (if a < (2 : Int) ^ (w - 1) then a else a - (2 : Int) ^ w) / (2 : Int) ^ shiftAmount w b)
def addOp : VOp := arithOp (fun a b _ => a + b) (fun f rm a b _ => f.add rm a b)
def subOp : VOp := arithOp (fun a b _ => a - b) (fun f rm a b _ => f.sub rm a b)
def mulOp : VOp := arithOp (fun a b _ => a * b) (fun f rm a b _ => f.mul rm a b)
def fmaddOp : VOp := arithOp (fun a b c => a * b + c) (fun f rm a b c => f.fmadd rm a b c)
def fmsubOp : VOp := arithOp (fun a b c => a * b - c) (fun f rm a b c => f.fmsub rm a b c)
def fnmsubOp : VOp := arithOp (fun a b c => -(a * b) + c) (fun f rm a b c => f.fnmsub rm a b c)
def fnmaddOp : VOp := arithOp (fun a b c => -(a * b) - c) (fun f rm a b c => f.fnmadd rm a b c)
def sqrtOp : VOp := floatOp true (fun f rm a _ => f.sqrt rm a)
def sgnjOp : VOp := floatOp false (fun f _ a b => (f.sgnj a b, 0))
def sgnjnOp : VOp := floatOp false (fun f _ a b => (f.sgnjn a b, 0))
def sgnjxOp : VOp := floatOp false (fun f _ a b => (f.sgnjx a b, 0))
def minOp : VOp := pickOp (fun a b => if a < b then a else b) (fun f a b => f.min a b)
def maxOp : VOp := pickOp (fun a b => if a < b then b else a) (fun f a b => f.max a b)
def movOp : VOp := bitsOp (fun a _ => a)

/-! ## Comparisons and predicates (46_v.md rules R1020 to R1029) -/

/-- A comparison of two values of one type. -/
structure VCmp where
  int : Int → Int → Bool
  flt : FFmt → Nat → Nat → Bool × BitVec 5

/-- Compares in the type `t`, with the flags. -/
def VCmp.run (c : VCmp) (t : EType) (x y : Word) : Bool × BitVec 5 :=
  match t with
  | .float f => c.flt f x.toNat y.toNat
  | .signed w => (c.int ((EType.signed w).int x) ((EType.signed w).int y), 0)
  | .unsigned w => (c.int ((EType.unsigned w).int x) ((EType.unsigned w).int y), 0)

def eqCmp : VCmp := ⟨fun a b => decide (a = b), fun f a b => f.eq a b⟩
/-- The negation of `feq` on floating-point elements, which no scalar comparison is: 1 where one is a NaN, and NV for a
signaling one only (46_v.md rule R1021). DESIGN CHOICE, log 16. -/
def neCmp : VCmp := ⟨fun a b => decide (a ≠ b), fun f a b => (!(f.eq a b).1, (f.eq a b).2)⟩
def ltCmp : VCmp := ⟨fun a b => decide (a < b), fun f a b => f.lt a b⟩
/-- On floating-point elements `fle` with its operands exchanged, so 0 and NV with a NaN (46_v.md rule R1023; 44_fd.md rule
R444). -/
def geCmp : VCmp := ⟨fun a b => decide (b ≤ a), fun f a b => f.le b a⟩

/-- Writes one bit for each active element (46_v.md rules R574, R1020). -/
def State.vCompare (s : State) (c : VCmp) (vpd : PReg) (src : VPairSv) (m : VMask) : Result :=
  match s.etype src.vec with
  | none => .next s.vIllegal
  | some t =>
    s.vRun
      (s.pOn vpd && s.maskOk m && s.operandOk src.a && s.operandOk src.b &&
        s.elemRmOk (s.operandRounds t src.a || s.operandRounds t src.b))
      ((List.range s.vl).foldl
        (fun u i =>
          if s.maskBit m i then
            let x := s.source src.a i t s.elemRm
            let y := s.source src.b i t s.elemRm
            let r := c.run t x.1 y.1
            (u.setPbit vpd i r.1).accrue (x.2 ||| y.2 ||| r.2)
          else u) s)

/-- A predicate register gets a bit for each of the `mvl` places; with `vl` = 0 nothing changes (46_v.md rules R574,
R1024). -/
def State.vLogic (s : State) (vpd p q : PReg) (f : Bool → Bool → Bool) : Result :=
  s.vRun (s.pOn vpd && s.pOn p && s.pOn q)
    (if s.vl = 0 then s
     else (List.range s.mvl).foldl (fun u i => u.setPbit vpd i (f (s.pbit p i) (s.pbit q i))) s)

/-! ## Vector loads and stores (46_v.md rules R577, R1007 to R1012) -/

/-- The address of element i: a base, and a displacement of its own; none where the index vector is not of integers. -/
abbrev ElemAddr := Nat → Word

/-- Loads the active elements of a list in order. A fault leaves the elements before it done, and its trap value is the
address of the element (46_v.md rule R574 item f). -/
def State.loadElems (s₀ s : State) (t : EType) (vd : Reg) (m : VMask) (addr : ElemAddr) : List Nat → Result
  | [] => .next (s.retire 4)
  | i :: is =>
    if s₀.maskBit m i then
      match s.memRead (addr i) t.bytes with
      | .error e => .next (s.raise { e with tval := addr i })
      | .ok (s', v) => s₀.loadElems (s'.setElem vd i v) t vd m addr is
    else s₀.loadElems s t vd m addr is

/-- Stores the active elements of a list in order (46_v.md rule R574 item f). -/
def State.storeElems (s₀ s : State) (t : EType) (vs : Reg) (m : VMask) (addr : ElemAddr) : List Nat → Result
  | [] => .next (s.retire 4)
  | i :: is =>
    if s₀.maskBit m i then
      match s.memWrite (addr i) t.bytes (s₀.elem vs i) with
      | .error e => .next (s.raise { e with tval := addr i })
      | .ok s' => s₀.storeElems s' t vs m addr is
    else s₀.storeElems s t vs m addr is

/-- A vector load of the register's type (46_v.md rule R577). -/
def State.vLoad (s : State) (vd : Reg) (m : VMask) (ok : Bool) (addr : EType → ElemAddr) : Result :=
  match s.etype vd with
  | none => .next s.vIllegal
  | some t => if s.cfg.ext.v && ok && s.maskOk m then s.loadElems s t vd m (addr t) (List.range s.vl) else .next s.vIllegal

/-- A vector store of the register's type (46_v.md rule R577). -/
def State.vStore (s : State) (vs : Reg) (m : VMask) (ok : Bool) (addr : EType → ElemAddr) : Result :=
  match s.etype vs with
  | none => .next s.vIllegal
  | some t => if s.cfg.ext.v && ok && s.maskOk m then s.storeElems s t vs m (addr t) (List.range s.vl) else .next s.vIllegal

/-- Sequential elements from `x[rs1] + imm × esize` (46_v.md rule R577). -/
def State.unitAddr (s : State) (rs1 : Reg) (imm : BitVec 7) (t : EType) : ElemAddr :=
  fun i => s.cfg.xlen.norm (s.getX rs1 + BitVec.ofNat 64 ((imm.toNat + i) * t.bytes))

/-- Elements a stride of `x[rs2]` bytes apart (46_v.md rule R1008). -/
def State.strideAddr (s : State) (rs1 rs2 : Reg) : ElemAddr :=
  fun i => s.cfg.xlen.norm (s.getX rs1 + BitVec.ofNat 64 i * s.getX rs2)

/-- The vector register holds integers, as an index vector must. -/
def State.indexOk (s : State) (r : Reg) : Bool :=
  match s.etype r with
  | none => false
  | some t => !t.isFloat

/-- The integer in element i of an index vector (46_v.md rule R1009). -/
def State.indexAt (s : State) (r : Reg) (i : Nat) : Int :=
  match s.etype r with
  | none => 0
  | some t => t.int (s.elem r i)

/-- Elements at byte indices that a vector holds (46_v.md rule R1009). -/
def State.indexAddr (s : State) (rs1 vs2 : Reg) : ElemAddr :=
  fun i => s.cfg.xlen.norm (s.getX rs1 + BitVec.ofInt 64 (s.indexAt vs2 i))

/-! ## The instructions -/

/-- `setvl` (46_v.md rule R575): unsigned. -/
def execSetvl (rd rs1 : Reg) (s : State) : Result :=
  let n := min (s.getX rs1).toNat s.mvl
  s.vRun true ({ s with vl := n }.setX rd (BitVec.ofNat 64 n))

/-- `vsetdcfg` (46_v.md rule R576). -/
def execVsetdcfg (rs1 : Reg) (s : State) : Result := s.vRun true (s.setVcfgd (s.getX rs1))

/-- `vclass` (46_v.md rule R1049): a mask of ten bits in an integer element. An 8-bit element gets its low eight bits:
DESIGN CHOICE, log 16. -/
def execVclass (vd vs1 : Reg) (m : VMask) (s : State) : Result :=
  match s.etype vd, s.etype vs1 with
  | some t, some (.float f) =>
    s.vRun (!t.isFloat && s.maskOk m)
      (s.elementwise m vd fun i => some (t.cut (1#64 <<< f.classBit ((EType.float f).cut (s.elem vs1 i)).toNat), 0))
  | _, _ => .next s.vIllegal

/-- `vextract` (46_v.md rule R1051). The start is `x[rs2]` unsigned, and start + i is not cut to XLEN bits, so that a start
of −1 copies nothing. DESIGN CHOICE, log 16. -/
def execVextract (vd vs1 rs2 : Reg) (m : VMask) (s : State) : Result :=
  match s.etype vd with
  | none => .next s.vIllegal
  | some t =>
    let start := (s.getX rs2).toNat
    s.vRun (s.maskOk m && s.operandOk (.vec vs1) && s.elemRmOk (s.operandRounds t (.vec vs1)))
      (s.elementwise m vd fun i =>
        if start + i < s.vl then some (s.source (.vec vs1) (start + i) t s.elemRm) else none)

/-- `vmerge` (46_v.md rules R572, R1052): the predicate selects. Only the element it selects is converted and raises
flags, not the other. DESIGN CHOICE, log 16. -/
def execVmerge (p : VMaskReg) (vd : Reg) (src : VPairSv) (s : State) : Result :=
  match s.etype vd with
  | none => .next s.vIllegal
  | some t =>
    s.vRun
      (s.pOn p.reg && s.operandOk src.a && s.operandOk src.b &&
        s.elemRmOk (s.operandRounds t src.a || s.operandRounds t src.b))
      (s.elementwise .all vd fun i => some (s.source (if s.pbit p.reg i then src.b else src.a) i t s.elemRm))

/-- The operand holds integers, as the index operand of `vselect` must. -/
def State.indexOperandOk (s : State) : VOperand → Bool
  | .vec r => s.indexOk r
  | .scalar (.x _) => true
  | .scalar (.f _) => false

/-- The index that the operand gives for element i. -/
def State.indexOperand (s : State) (i : Nat) : VOperand → Int
  | .vec r => s.indexAt r i
  | .scalar (.x r) => (s.getSx r).toInt
  | .scalar (.f _) => 0

/-- `vselect` (46_v.md rules R572, R1053; 92_eei_decisions.md D29): an index that is negative, or `vl` or more, or `mvl`
or more, leaves the element. Where the rule's bound, `mvl`, and the decision's, `vl`, differ, the decision counts:
DESIGN CHOICE, log 16. -/
def execVselect (vd : Reg) (src : VPairSv) (m : VMask) (s : State) : Result :=
  match s.etype vd with
  | none => .next s.vIllegal
  | some t =>
    s.vRun
      (s.maskOk m && s.operandOk src.a && s.indexOperandOk src.b && s.elemRmOk (s.operandRounds t src.a))
      (s.elementwise m vd fun i =>
        let k := s.indexOperand i src.b
        if 0 ≤ k ∧ k < ((min s.vl s.mvl : Nat) : Int) then some (s.source src.a k.toNat t s.elemRm) else none)

/-- `vpswap` (46_v.md rule R1029). -/
def execVpswap (p q : PReg) (s : State) : Result :=
  s.vRun (s.pOn p && s.pOn q)
    (if s.vl = 0 then s
     else (List.range s.mvl).foldl (fun u i => (u.setPbit p i (s.pbit q i)).setPbit q i (s.pbit p i)) s)

/-- The meaning of every vector instruction (46_v.md rules R1001 to R1053). The vector AMOs have a name and no effect
(rules R1013 to R1019): refused by name. -/
def execV (i : VInstr) (s : State) : Result :=
  match i with
  | .setvl rd rs1 => execSetvl rd rs1 s
  | .vmulh vd src m => s.vOp mulhOp vd src.a src.b src.b m
  | .vrem vd src m => s.vOp remOp vd src.a src.b src.b m
  | .vsll vd src m => s.vOp sllOp vd src.a src.b src.b m
  | .vsrl vd src m => s.vOp srlOp vd src.a src.b src.b m
  | .vsra vd src m => s.vOp sraOp vd src.a src.b src.b m
  | .vld vd rs1 imm m => s.vLoad vd m true (fun t => s.unitAddr rs1 imm t)
  | .vlds vd rs1 rs2 m => s.vLoad vd m true (fun _ => s.strideAddr rs1 rs2)
  | .vldx vd rs1 vs2 m => s.vLoad vd m (s.indexOk vs2) (fun _ => s.indexAddr rs1 vs2)
  | .vst vs rs1 imm m => s.vStore vs m true (fun t => s.unitAddr rs1 imm t)
  | .vsts vs rs1 rs2 m => s.vStore vs m true (fun _ => s.strideAddr rs1 rs2)
  | .vstx vs rs1 vs2 m => s.vStore vs m (s.indexOk vs2) (fun _ => s.indexAddr rs1 vs2)
  | .amoswap _ _ _ => .refused (.vectorNameOnly "AMOSWAP")
  | .amoadd _ _ _ => .refused (.vectorNameOnly "AMOADD")
  | .amoxor _ _ _ => .refused (.vectorNameOnly "AMOXOR")
  | .amoand _ _ _ => .refused (.vectorNameOnly "AMOAND")
  | .amoor _ _ _ => .refused (.vectorNameOnly "AMOOR")
  | .amomin _ _ _ => .refused (.vectorNameOnly "AMOMIN")
  | .amomax _ _ _ => .refused (.vectorNameOnly "AMOMAX")
  | .vpeq vpd src m => s.vCompare eqCmp vpd src.sv m
  | .vpne vpd src m => s.vCompare neCmp vpd src.sv m
  | .vplt vpd src m => s.vCompare ltCmp vpd src m
  | .vpge vpd src m => s.vCompare geCmp vpd src m
  | .vpand vpd p q => s.vLogic vpd p q (fun a b => a && b)
  | .vpandn vpd p q => s.vLogic vpd p q (fun a b => a && !b)
  | .vpor vpd p q => s.vLogic vpd p q (fun a b => a || b)
  | .vpxor vpd p q => s.vLogic vpd p q (fun a b => a ^^ b)
  | .vpnot vpd p => s.vLogic vpd p p (fun a _ => !a)
  | .vpswap p q => execVpswap p q s
  | .vmov vd src m => s.vOp movOp vd src.op src.op src.op m
  | .vcvt vd vs1 m => s.vOp movOp vd (.vec vs1) (.vec vs1) (.vec vs1) m
  | .vadd vd src m => s.vOp addOp vd src.a src.b src.b m
  | .vsub vd src m => s.vOp subOp vd src.a src.b src.b m
  | .vmul vd src m => s.vOp mulOp vd src.a src.b src.b m
  | .vdiv vd src m => s.vOp divOp vd src.a src.b src.b m
  | .vsqrt vd vs1 m => s.vOp sqrtOp vd (.vec vs1) (.vec vs1) (.vec vs1) m
  | .vfmadd vd src m => s.vOp fmaddOp vd src.a src.b src.c m
  | .vfmsub vd src m => s.vOp fmsubOp vd src.a src.b src.c m
  | .vfnmsub vd src m => s.vOp fnmsubOp vd src.a src.b src.c m
  | .vfnmadd vd src m => s.vOp fnmaddOp vd src.a src.b src.c m
  | .vsgnj vd src m => s.vOp sgnjOp vd src.a src.b src.b m
  | .vsgnjn vd src m => s.vOp sgnjnOp vd src.a src.b src.b m
  | .vsgnjx vd src m => s.vOp sgnjxOp vd src.a src.b src.b m
  | .vmin vd src m => s.vOp minOp vd src.a src.b src.b m
  | .vmax vd src m => s.vOp maxOp vd src.a src.b src.b m
  | .vxor vd src m => s.vOp (bitsOp fun a b => a ^^^ b) vd src.a src.b src.b m
  | .vor vd src m => s.vOp (bitsOp fun a b => a ||| b) vd src.a src.b src.b m
  | .vand vd src m => s.vOp (bitsOp fun a b => a &&& b) vd src.a src.b src.b m
  | .vclass vd vs1 m => execVclass vd vs1 m s
  | .vsetdcfg rs1 => execVsetdcfg rs1 s
  | .vextract vd vs1 rs2 m => execVextract vd vs1 rs2 m s
  | .vmerge p vd src => execVmerge p vd src s
  | .vselect vd src m => execVselect vd src m s

end Sys2Proof.Machine
end

