-- ==== Sys2Proof/Safety.lean ====
section
/-!
DEFINITION. The terms that claims use: numbers where the machine has bits, what an instruction did to the state, what
taking a trap did, where in memory an access is found, and the invariants that every step keeps.
-/

namespace Sys2Proof.Machine

/-! ## Numbers (00_scope.md rules R11, R12) -/

/-- XLEN. -/
def State.width (s : State) : Nat := s.cfg.xlen.bits

/-- The `n`-bit pattern of an integer: the integer modulo `2^n`. -/
def wrap (n : Nat) (v : Int) : Nat := (v % (2 : Int) ^ n).toNat

/-- The two's-complement integer of an `n`-bit pattern. -/
def signed (n a : Nat) : Int := if a < 2 ^ (n - 1) then (a : Int) else (a : Int) - (2 : Int) ^ n

/-- `x[r]`, unsigned. -/
def State.ux (s : State) (r : Reg) : Nat := (s.getX r).toNat

/-- `x[r]`, signed. -/
def State.ix (s : State) (r : Reg) : Int := signed s.width (s.ux r)

/-- `x[r][31:0]`, unsigned. -/
def State.uw (s : State) (r : Reg) : Nat := s.ux r % 2 ^ 32

/-- `x[r][31:0]`, signed. -/
def State.iw (s : State) (r : Reg) : Int := signed 32 (s.uw r)

/-- A 32-bit pattern as an XLEN-bit register holds it: sign-extended. -/
def State.ofW (s : State) (a : Nat) : Nat := wrap s.width (signed 32 a)

/-- `pc`. -/
def State.upc (s : State) : Nat := s.pc.toNat % 2 ^ s.width

/-- The address `d` bytes from `pc`, modulo `2^XLEN`. -/
def State.fromPc (s : State) (d : Int) : Nat := wrap s.width ((s.upc : Int) + d)

/-- What an instruction address is a multiple of (10_state.md rule R26). -/
def State.ialign (s : State) : Nat := if s.cfg.ext.c then 2 else 4

/-- The effective address `x[r] + d`, modulo `2^XLEN` (20_memory.md rule R105). -/
def State.eaOf (s : State) (r : Reg) (d : Int) : Nat := wrap s.width ((s.ux r : Int) + d)

/-! ## Memory (20_memory.md rules R101, R108, R110, R130) -/

/-- The address of byte `k` of an access at `a`. -/
def State.byteAddr (s : State) (a k : Nat) : Nat := (a + k) % 2 ^ s.width

/-- The value of `n` bytes of memory, byte `k` at physical address `at_ k`, little-endian. -/
def State.bytesAt (s : State) (at_ : Nat → Nat) : Nat → Nat
  | 0 => 0
  | n + 1 => s.bytesAt at_ n + (s.mem.read (at_ n)).toNat * 256 ^ n

/-- The byte that storing the low `n` bytes of `v`, byte `k` at `at_ k`, puts at physical address `b`; none elsewhere.
Were two bytes to go to one address, the later would stay. -/
def storedAt (at_ : Nat → Nat) (v : Nat) : Nat → Nat → Option Byte
  | 0, _ => none
  | n + 1, b => if b = at_ n then some (BitVec.ofNat 8 (v / 256 ^ n)) else storedAt at_ v n b

/-- Addresses are physical: machine mode, no supervisor mode, or paging off (20_memory.md rule R130). -/
def State.Untranslated (s : State) : Prop :=
  s.priv = .m ∨ s.cfg.modes.hasS = false ∨ satpMode s.cfg.xlen s.satp = 0

/-- The first `k` bytes of an access at virtual address `a` were translated one by one in ascending order, byte `j` to
physical address `at_ j`, and passed the physical checks; `u` is the state after the translations (20_memory.md rules
R108, R120, R130). -/
def State.FoundBytes (s : State) (t : Access) (a : Nat) (at_ : Nat → Nat) : Nat → State → Prop
  | 0, u => u = s
  | k + 1, u => ∃ w : State, s.FoundBytes t a at_ k w ∧
      w.translate s.priv t (BitVec.ofNat 64 (s.byteAddr a k)) = .ok (u, at_ k) ∧ u.physOk (at_ k) 1 t s.priv = true

/-- An access of `n` bytes at virtual address `a`, made in the hart's mode, is to bytes of main memory and of no device:
naturally aligned, it is translated once and its bytes lie together; misaligned, where that is supported and the access is
not atomic, byte by byte. Byte `k` is at physical address `at_ k`; the physical checks passed; `u` is the state after the
translation, which is `s` where addresses are physical (20_memory.md rules R101, R108, R109, R113, R120, R130). -/
def State.Found (s : State) (t : Access) (a n : Nat) (u : State) (at_ : Nat → Nat) : Prop :=
  (if a % n = 0 then
    s.translate s.priv t (BitVec.ofNat 64 a) = .ok (u, at_ 0) ∧ u.physOk (at_ 0) n t s.priv = true ∧
      ∀ k, k < n → at_ k = at_ 0 + k
  else s.cfg.misalignedOk = true ∧ t.atomic = false ∧ s.FoundBytes t a at_ n u) ∧
  ∀ k, k < n → deviceAt s.cfg (at_ k) = false

/-- The memory-mapped registers are where 93_implementation_defined.md Part 1 lets them be, naturally aligned, and none
lies over another. -/
def RegistersApart (c : Config) : Prop :=
  c.mtimeAddr % 8 = 0 ∧ c.mtimecmpAddr % 8 = 0 ∧ c.msipAddr % 4 = 0 ∧ c.mtimeAddr ≠ c.mtimecmpAddr ∧
  c.msipAddr / 8 * 8 ≠ c.mtimeAddr ∧ c.msipAddr / 8 * 8 ≠ c.mtimecmpAddr

/-! ## What an instruction did -/

/-- The effect of an instruction that completes: at most one x register and one f register written, flags raised, bytes
stored, the reservation set, and where `pc` goes. -/
structure Effect where
  /-- The x register written and the value, as an XLEN-bit pattern. -/
  x : Option (Reg × Nat)
  /-- The f register written and its bits. -/
  f : Option (Reg × Word)
  /-- The flags raised. -/
  flags : BitVec 5
  /-- The byte stored at a physical address. -/
  stored : Nat → Option Byte
  /-- The reservation, where the instruction sets or drops it. -/
  reservation : Option (Option Reservation)
  /-- How many free values were drawn. -/
  draws : Nat
  /-- `pc` after it. -/
  next : Nat

/-- Nothing but going on at `next`. -/
def Effect.nothing (next : Nat) : Effect where
  x := none
  f := none
  flags := 0
  stored := fun _ => none
  reservation := none
  draws := 0
  next := next

/-- A store hits a reservation (43_a.md rule R365 item 3). That an AMO of the hart itself is such a store is the model's
choice, log 18. -/
def Effect.Breaks (e : Effect) (v : Reservation) : Prop :=
  ∃ a, (e.stored a).isSome = true ∧ v.addr ≤ a ∧ a < v.addr + v.size

/-- `t` is `s` after exactly this effect and nothing else. `x0` reads 0 whatever is written to it (10_state.md rule
R21). Every other byte of memory, register and field is as before. -/
structure Did (s t : State) (e : Effect) : Prop where
  xs : ∀ r, t.ux r = if r ≠ 0 ∧ e.x.map Prod.fst = some r then (e.x.map Prod.snd).getD 0 else s.ux r
  fs : ∀ r, t.getF r = if e.f.map Prod.fst = some r then (e.f.map Prod.snd).getD 0 else s.getF r
  flags : t.fcsr = s.fcsr ||| e.flags.setWidth 8
  bytes : ∀ a, t.mem.read a = (e.stored a).getD (s.mem.read a)
  fetched : s.cfg.fetchStale = true → ∀ a, t.fetchByte a = s.fetchByte a
  fetchedNow : s.cfg.fetchStale = false → t.staleFetch = s.staleFetch
  setsReservation : ∀ r, e.reservation = some r → t.reservation = r
  breaksReservation : e.reservation = none → ∀ v, s.reservation = some v → e.Breaks v → t.reservation = none
  keepsReservation : e.reservation = none → (∀ v, s.reservation = some v → ¬ e.Breaks v) → t.reservation = s.reservation
  draws : t.free = s.free + e.draws
  next : t.pc.toNat = e.next
  count : t.instret = s.instret + 1
  rest : t = { s with x := t.x, f := t.f, fcsr := t.fcsr, mem := t.mem, staleFetch := t.staleFetch,
                      reservation := t.reservation, free := t.free, pc := t.pc, instret := t.instret }

/-- The instruction completes with this effect on `u`, the state after the translations it made; elsewhere the effect is
read off `s`. -/
def CompletesIn (i : Instr) (s u : State) (e : Effect) : Prop := ∃ t, exec i s = .next t ∧ Did u t e

/-- The instruction completes with this effect. -/
def Completes (i : Instr) (s : State) (e : Effect) : Prop := CompletesIn i s s e

/-- The instruction of `len` bytes writes `v` to `x[rd]`, and that is all it does. -/
def GivesX (i : Instr) (s : State) (len : Nat) (rd : Reg) (v : Nat) : Prop :=
  Completes i s { Effect.nothing (s.fromPc len) with x := some (rd, v) }

/-- The instruction of `len` bytes writes `v` to `f[rd]` and raises the flags, and that is all it does. -/
def GivesF (i : Instr) (s : State) (len : Nat) (rd : Reg) (v : Word) (flags : BitVec 5) : Prop :=
  Completes i s { Effect.nothing (s.fromPc len) with f := some (rd, v), flags := flags }

/-- The instruction writes `v` to `x[rd]` and raises the flags, and that is all it does. -/
def GivesXFlags (i : Instr) (s : State) (rd : Reg) (v : Nat) (flags : BitVec 5) : Prop :=
  Completes i s { Effect.nothing (s.fromPc 4) with x := some (rd, v), flags := flags }

/-- The instruction of `len` bytes goes to `target`, linking in `x[rd]`, and that is all it does. -/
def JumpsTo (i : Instr) (s : State) (len : Nat) (rd : Reg) (target : Nat) : Prop :=
  Completes i s { Effect.nothing target with x := some (rd, s.fromPc len) }

/-- The instruction of `len` bytes accesses `n` bytes at virtual address `a`, and wherever in main memory they are found
it has the effect on `u`, the state after the translation; `at_` tells where they are. -/
def Accesses (i : Instr) (s : State) (t : Access) (n a : Nat) (e : State → (Nat → Nat) → Effect) : Prop :=
  ∀ u at_, s.Found t a n u at_ → CompletesIn i s u (e u at_)

/-- The instruction of `len` bytes loads the `n` bytes at `a`, writes the value made of them to `x[rd]`, and that and the
translation is all it does. -/
def LoadsX (i : Instr) (s : State) (len n a : Nat) (rd : Reg) (value : Nat → Nat) : Prop :=
  Accesses i s .load n a fun u at_ => { Effect.nothing (s.fromPc len) with x := some (rd, value (u.bytesAt at_ n)) }

/-- The instruction of `len` bytes loads the `n` bytes at `a`, writes the value made of them to `f[rd]`, and that and the
translation is all it does. -/
def LoadsF (i : Instr) (s : State) (len n a : Nat) (rd : Reg) (value : Nat → Word) : Prop :=
  Accesses i s .load n a fun u at_ => { Effect.nothing (s.fromPc len) with f := some (rd, value (u.bytesAt at_ n)) }

/-- The instruction of `len` bytes stores the low `n` bytes of `v` at `a`, and that and the translation is all it does. -/
def Stores (i : Instr) (s : State) (len n a v : Nat) : Prop :=
  Accesses i s .store n a fun _ at_ => { Effect.nothing (s.fromPc len) with stored := storedAt at_ v n }

/-- The instruction stores at `a` the low `n` bytes of the value made of those that are there, writes the old value,
extended, to `x[rd]`, and that and the translation is all it does. It breaks a reservation that it hits, the hart's own
AMO too: log 18. -/
def Swaps (i : Instr) (s : State) (n a : Nat) (rd : Reg) (new extend : Nat → Nat) : Prop :=
  Accesses i s .amo n a fun u at_ =>
    { Effect.nothing (s.fromPc 4) with
      stored := storedAt at_ (new (u.bytesAt at_ n)) n, x := some (rd, extend (u.bytesAt at_ n)) }

/-! ## Control and status registers -/

/-- The CSR instruction completes: `x[rd]` gets what CSR `r` read as before, and where `new` is a value the CSR is
written with it; `pc` passes the instruction; nothing else changes (40_rv32i.md rule R286). -/
def AccessesCsr (i : Instr) (s : State) (rd : Reg) (r : Csr) (new : Option Word) : Prop :=
  ∃ t, exec i s = .next t ∧
    (∀ q, t.ux q = if q ≠ 0 ∧ q = rd then (s.csrRead r).toNat else s.ux q) ∧
    t.pc.toNat = s.fromPc 4 ∧ t.instret = s.instret + 1 ∧ (∀ a, t.mem.read a = s.mem.read a) ∧
    match new with
    | none => t = { s with x := t.x, pc := t.pc, instret := t.instret }
    | some v => t = { s.csrWrite r v with x := t.x, pc := t.pc, instret := t.instret }

/-- The hart has the CSR of this number, and the mode may use it; to write it, it is not read-only (10_state.md rules
R42 to R44). -/
def State.MayAccess (s : State) (a : BitVec 12) (writes : Bool) (r : Csr) : Prop :=
  csrOf s.cfg a = some r ∧ a.toNat / 256 % 4 ≤ s.priv.code.toNat ∧ (writes = true → a.toNat / 1024 ≠ 3)

/-! ## Floating point (10_state.md rules R30, R31; 44_fd.md rule R401) -/

/-- `f[r]` as a single-precision operand: NaN-boxed, or the canonical NaN. -/
def State.single (s : State) (r : Reg) : Nat :=
  if s.cfg.ext.d = true ∧ (s.getF r).toNat / 2 ^ 32 ≠ 2 ^ 32 - 1 then 0x7fc00000 else (s.getF r).toNat % 2 ^ 32

/-- `f[r]` as a double-precision operand. -/
def State.double (s : State) (r : Reg) : Nat := (s.getF r).toNat

/-- A single-precision value as an f register holds it. -/
def State.boxed (s : State) (v : Nat) : Word :=
  if s.cfg.ext.d then BitVec.ofNat 64 ((2 ^ 32 - 1) * 2 ^ 32 + v % 2 ^ 32) else BitVec.ofNat 64 (v % 2 ^ 32)

/-- The rounding mode that the field `rm` selects: 0 to 4 name the modes, 7 takes `fcsr.frm`; none for a reserved value
(44_fd.md rule R404). -/
def State.modeOf (s : State) (rm : BitVec 3) : Option Rm :=
  [Rm.rne, .rtz, .rdn, .rup, .rmm][if rm.toNat = 7 then s.fcsr.toNat / 32 else rm.toNat]?

/-- The number `± m × 2^e`. -/
def ratOf (neg : Bool) (m : Nat) (e : Int) : ℚ := (if neg then -1 else 1) * (m : ℚ) * (2 : ℚ) ^ e

/-- The number a pattern stands for; none for an infinity or a NaN. -/
def FFmt.value (t : FFmt) (b : Nat) : Option ℚ :=
  match t.unpack b with
  | .nan _ => none
  | .inf _ => none
  | .fin n m e => some (ratOf n m e)

/-- The pattern stands for this number or infinity; a NaN stands for none. -/
def FFmt.StandsFor (t : FFmt) (b : Nat) (x : EReal) : Prop :=
  match t.unpack b with
  | .nan _ => False
  | .inf n => x = if n then ⊥ else ⊤
  | .fin n m e => x = ((ratOf n m e : ℝ) : EReal)

/-- The formats of F and D. -/
def floatFormats : List FFmt := [fmtS, fmtD]

/-! ## What rounding is (10_state.md rule R33; 44_fd.md rules R401, R402)

The magnitudes of a format, numbered as its patterns are, and going on beyond the greatest exponent as if there were
none; the one that a mode picks for an exact magnitude; the result and the flags that follow. -/

/-- The number of magnitude pattern `j`, with no greatest exponent. -/
def FFmt.grid (t : FFmt) (j : Nat) : ℚ :=
  if j / 2 ^ t.fracBits = 0 then (j : ℚ) * (2 : ℚ) ^ t.qmin
  else ((2 ^ t.fracBits + j % 2 ^ t.fracBits : Nat) : ℚ) * (2 : ℚ) ^ (t.qmin + ((j / 2 ^ t.fracBits : Nat) : Int) - 1)

/-- The mode rounds a number of this sign away from zero, where it does not round to nearest. -/
def Rm.upward (rm : Rm) (neg : Bool) : Bool := if neg then rm == .rdn else rm == .rup

/-- `k` is the magnitude that the mode picks for the exact one `u` of a number of this sign (10_state.md rule R33). -/
def FFmt.Picks (t : FFmt) (rm : Rm) (neg : Bool) (u : ℝ) (k : Nat) : Prop :=
  let off (j : Nat) : ℝ := |(t.grid j : ℝ) - u|
  match rm with
  | .rne => (∀ j, off k ≤ off j) ∧ ∀ j, j ≠ k → off j = off k → k % 2 = 0
  | .rmm => (∀ j, off k ≤ off j) ∧ ∀ j, off j = off k → j ≤ k
  | .rtz | .rdn | .rup =>
    if rm.upward neg then u ≤ (t.grid k : ℝ) ∧ ∀ j, u ≤ (t.grid j : ℝ) → k ≤ j
    else (t.grid k : ℝ) ≤ u ∧ ∀ j, (t.grid j : ℝ) ≤ u → j ≤ k

/-- The exact magnitude is tiny after rounding: rounded with no least exponent it stays below the least normal number,
that is, below the point from which the mode takes it there (44_fd.md rule R402 item 3). -/
def FFmt.Tiny (t : FFmt) (rm : Rm) (neg : Bool) (u : ℝ) : Prop :=
  let least : ℝ := (2 : ℝ) ^ t.emin
  match rm with
  | .rne | .rmm => u < least - (2 : ℝ) ^ (t.emin - 2 - (t.fracBits : Int))
  | .rtz | .rdn | .rup =>
    if rm.upward neg then u ≤ least - (2 : ℝ) ^ (t.emin - 1 - (t.fracBits : Int)) else u < least

/-- `r` is the exact non-zero number `v` rounded to the format in this mode, with its flags: the magnitude picked, NX
when it is not the exact one, UF when besides the exact one is tiny; beyond the greatest number, OF and NX, and infinity
or the greatest number as the mode dictates (44_fd.md rule R402 items 3 and 5). -/
def FFmt.Rounds (t : FFmt) (rm : Rm) (v : ℝ) (r : FRes) : Prop :=
  ∃ neg k, (neg = true ↔ v < 0) ∧ t.Picks rm neg |v| k ∧
    (k < t.infBits →
      r.1 = t.sign neg k ∧ (r.2.getLsbD 0 = true ↔ (t.grid k : ℝ) ≠ |v|) ∧
      (r.2.getLsbD 1 = true ↔ (t.grid k : ℝ) ≠ |v| ∧ t.Tiny rm neg |v|) ∧ r.2.toNat < 4) ∧
    (t.infBits ≤ k →
      r = (t.sign neg (if rm = .rne ∨ rm = .rmm ∨ rm.upward neg = true then t.infBits else t.infBits - 1), 0b00101#5))

/-- `z` is the integer that the mode picks for the number `x` (10_state.md rule R33; 44_fd_convert.md rule R458). -/
def Rm.PicksInt (rm : Rm) (x : ℚ) (z : Int) : Prop :=
  match rm with
  | .rne => |x - z| ≤ 1 / 2 ∧ (|x - z| = 1 / 2 → z % 2 = 0)
  | .rmm => |x - z| ≤ 1 / 2 ∧ (|x - z| = 1 / 2 → |x| < |(z : ℚ)|)
  | .rtz => z = if x < 0 then ⌈x⌉ else ⌊x⌋
  | .rdn => z = ⌊x⌋
  | .rup => z = ⌈x⌉

/-! ## Interrupts (60_exceptions.md rules R706, R730) -/

/-- The interrupt is pending and enabled, and the mode lets it be taken. -/
def State.Takes (s : State) (i : Intr) : Prop :=
  (s.csrRead .mip).getLsbD i.code = true ∧ (s.csrRead .mie).getLsbD i.code = true ∧
  (if s.cfg.modes.hasS = true ∧ s.mideleg.getLsbD i.code = true then s.priv = .u ∨ (s.priv = .s ∧ s.mstatus.sie = true)
   else s.priv ≠ .m ∨ s.mstatus.mie = true)

/-- The rank of an interrupt: the lower is taken first. -/
def Intr.rank : Intr → Nat
  | .machineExternal => 0
  | .machineSoftware => 1
  | .machineTimer => 2
  | .supervisorExternal => 3
  | .supervisorSoftware => 4
  | .supervisorTimer => 5

/-! ## What taking a trap did (60_exceptions.md rules R720 to R723) -/

/-- Supervisor mode handles the trap (60_exceptions.md rule R722). -/
def State.Delegates (s : State) (isInt : Bool) (code : Nat) : Prop :=
  s.cfg.modes.hasS = true ∧ s.priv ≠ .m ∧ (if isInt then s.mideleg else s.medeleg).getLsbD code = true

/-- The value of the cause register (60_exceptions.md rules R701, R702). -/
def State.causeNumber (s : State) (isInt : Bool) (code : Nat) : Nat :=
  (if isInt then 2 ^ (s.width - 1) else 0) + code

/-- Where the vector register sends the trap: its base, or in vectored mode for an interrupt base + 4 × code
(60_exceptions.md rule R723). -/
def State.vectorOf (s : State) (tvec : Word) (isInt : Bool) (code : Nat) : Nat :=
  (tvec.toNat / 4 * 4 + if isInt = true ∧ tvec.toNat % 4 = 1 then 4 * code else 0) % 2 ^ s.width

/-- `t` is `s` after the trap was taken to the mode that handles it, and nothing else. -/
def Trapped (s t : State) (isInt : Bool) (code epc tval : Nat) : Prop :=
  (s.Delegates isInt code →
    t.sepc.toNat = epc ∧ t.scause.toNat = s.causeNumber isInt code ∧ t.stval.toNat = tval ∧
    t.pc.toNat = s.vectorOf s.stvec isInt code ∧
    t = { s with
            sepc := t.sepc, scause := t.scause, stval := t.stval, pc := t.pc, priv := .s
            mstatus := { s.mstatus with spie := s.mstatus.sie, sie := false, spp := decide (s.priv = .s) } }) ∧
  (¬ s.Delegates isInt code →
    t.mepc.toNat = epc ∧ t.mcause.toNat = s.causeNumber isInt code ∧ t.mtval.toNat = tval ∧
    t.pc.toNat = s.vectorOf s.mtvec isInt code ∧
    t = { s with
            mepc := t.mepc, mcause := t.mcause, mtval := t.mtval, pc := t.pc, priv := .m
            mstatus := { s.mstatus with mpie := s.mstatus.mie, mie := false, mpp := s.priv } })

/-- The instruction raises the exception of this code with this trap value, and does nothing else. -/
def Raises (i : Instr) (s : State) (code tval : Nat) : Prop :=
  ∃ t, exec i s = .next t ∧ Trapped s t false code s.upc tval

/-- The instruction is illegal: its own bits are the trap value (60_exceptions.md rules R703, R711). -/
def IsIllegal (i : Instr) (s : State) : Prop := Raises i s 2 ((encode i).toWord.toNat)

/-! ## Invariants -/

/-- The mode is implemented. -/
def State.implements (s : State) : Priv → Bool
  | .u => s.cfg.modes.hasU
  | .s => s.cfg.modes.hasS
  | .m => true

/-- The mode, and the one in MPP, are implemented (10_state.md rules R28, R48). -/
def State.ModeLegal (s : State) : Prop := s.implements s.priv = true ∧ s.implements s.mppField = true

/-- `pc` is an XLEN-bit multiple of the instruction alignment (10_state.md rules R25, R26). -/
def State.PcLegal (s : State) : Prop := s.pc.toNat < 2 ^ s.width ∧ s.pc.toNat % s.ialign = 0

/-- The fields that take legal values only hold legal ones: bit 1 of the vector registers, the mode of `satp`, the
reserved bits and A of each PMP entry, the bits of the delegation registers (10_state.md rules R49, R55, R57, R61). -/
def State.CsrLegal (s : State) : Prop :=
  s.mtvec.getLsbD 1 = false ∧ s.stvec.getLsbD 1 = false ∧
  (s.cfg.xlen = .rv64 → satpMode .rv64 s.satp = 0 ∨ satpMode .rv64 s.satp = 8) ∧
  (∀ i, i < 16 → (s.pmpCfgAt i) &&& 0x70#8 = 0) ∧
  s.medeleg &&& ~~~medelegMask = 0 ∧ s.mideleg &&& ~~~midelegMask = 0

/-- Every reservation is of a word or a doubleword, naturally aligned (43_a.md rules R362, R365). -/
def State.ReservationLegal (s : State) : Prop :=
  ∀ v, s.reservation = some v → (v.size = 4 ∨ v.size = 8) ∧ v.addr % v.size = 0

/-- The registers that only a more privileged mode than user mode may change (10_state.md rules R28, R42). -/
def State.privileged (s : State) :
    Mstatus × List Word × (Bool × Bool × Bool) × Vector (BitVec 8) 16 × Vector Word 16 :=
  (s.mstatus,
   [s.mtvec, s.mepc, s.mcause, s.mtval, s.mscratch, s.mie, s.medeleg, s.mideleg, s.stvec, s.sepc, s.scause, s.sscratch,
    s.stval, s.satp],
   (s.ssip, s.stip, s.seip), s.pmpcfg, s.pmpaddr)

end Sys2Proof.Machine
end

