-- ==== Sys2Proof/Certificates/Slice0/Obligations.lean ====
section
/-!
DEFINITION. The statements for the provers. Most are of the form `GivesX`, `Stores`, `Raises` and so on of
Sys2Proof/Safety.lean: what an instruction does, and that it does nothing else (`Did`).
-/

open Sys2Proof Sys2Proof.Machine

/-! ## Reset, decoding, the step -/

/-- 10_state.md rule R67, 70_reset_and_hazards.md rule R781: what the spec fixes for reset. -/
def Obligations.ResetValues : Prop :=
  State.reset.pc = State.reset.cfg.resetPc ∧ State.reset.pc.toNat % 4 = 0 ∧ State.reset.priv = .m ∧
  State.reset.mstatus.mie = false ∧
  (∀ i : Fin 16, (State.reset.pmpCfgAt i.val).toNat / 8 % 4 = 0 ∧ (State.reset.pmpCfgAt i.val).toNat / 128 = 0) ∧
  State.reset.reservation = none ∧ State.reset.tlb = [] ∧ State.reset.ux 0 = 0 ∧
  (State.reset.csrRead .mstatus).getLsbD 17 = false

/-- The invariants of the statements below hold after reset. It rests on the values the model chose where the spec gives
none: logs 3 and 4. -/
def Obligations.ResetHasInvariants : Prop :=
  State.reset.mem.wf = true ∧ State.reset.ModeLegal ∧ State.reset.PcLegal ∧ State.reset.CsrLegal ∧
  State.reset.ReservationLegal

/-- Words that the spec prints with their instructions decode to them. -/
def Obligations.WordsDecode : Prop :=
  decode Config.default (.long 0x00e60533#32) = .ok (.add 10 12 14) ∧
  decode Config.default (.long 0x00130293#32) = .ok (.addi 5 6 1) ∧
  decode Config.default (.long 0x0462e063#32) = .ok (.bltu 5 6 0x20) ∧
  decode Config.default (.short 0x4705#16) = .ok (.cLi 14 1) ∧
  decode Config.default (.short 0x8636#16) = .ok (.cMv 12 13) ∧
  decode Config.default (.long 0x30200073#32) = .ok .mret

/-- Decoding the encoding of a well-formed instruction of a present extension gives the instruction back. -/
def Obligations.DecodeEncode : Prop :=
  ∀ (c : Config) (i : Instr), i.wf c.xlen = true → i.extOk c = true → decode c (encode i) = .ok i

/-- Bits that decode to an instruction are its encoding: no bit is ignored, and the instruction is well formed and of a
present extension. -/
def Obligations.EncodeDecode : Prop :=
  ∀ (c : Config) (b : Bits) (i : Instr), decode c b = .ok i → encode i = b ∧ i.wf c.xlen = true ∧ i.extOk c = true

/-- When no interrupt is taken and the bytes at `pc` decode to an instruction, a step is that instruction and then the
environment's turn, which without an input counts a cycle and advances the timer: how far is the model's choice, logs
2 and 9. That the page-table updates and cached translations of the fetch stand whatever the instruction does (`u`) is
the model's choice, log 12. -/
def Obligations.StepRunsDecoded : Prop :=
  ∀ (s u : State) (b : Bits) (i : Instr),
    s.waiting = false → (∀ j, ¬ s.Takes j) → s.fetch = .ok (u, b) → decode s.cfg b = .ok i →
    step s = ticked (exec i u) ∧
    (∀ t, exec i u = .next t → step s = .next t.tick) ∧
    (∀ t : State, t.inputs = [] → t.tick = { t with cycle := t.cycle + 1, mtime := t.mtime + t.cfg.mtimeTick })

/-- The fetch: two bytes, or four when the first parcel ends in 11, the low parcel first. Each parcel is translated as a
fetch in the hart's mode, the second in the state after the first, and checked; a failed translation is the exception of
the fetch, a failed check the instruction access fault with the parcel's address. Where addresses are physical a parcel
is where its address says. That fetches see memory while no stale view is held is the model's choice, log 14. -/
def Obligations.FetchReadsParcels : Prop :=
  ∀ s : State, s.PcLegal →
    let word (a : Nat) : Word := BitVec.ofNat 64 a
    let a := s.fromPc 2
    (∀ e, s.translate s.priv .fetch (word s.upc) = .error e → s.fetch = .error e) ∧
    (∀ u pa, s.translate s.priv .fetch (word s.upc) = .ok (u, pa) →
      let lo := parcelOf (u.fetchByte pa) (u.fetchByte (pa + 1))
      (u.physOk pa 2 .fetch s.priv = false → s.fetch = .error ⟨.instrAccessFault, word s.upc⟩) ∧
      (u.physOk pa 2 .fetch s.priv = true →
        (lo.toNat % 4 ≠ 3 → s.fetch = .ok (u, .short lo)) ∧
        (lo.toNat % 4 = 3 →
          (∀ e, u.translate s.priv .fetch (word a) = .error e → s.fetch = .error e) ∧
          (∀ w pb, u.translate s.priv .fetch (word a) = .ok (w, pb) →
            (w.physOk pb 2 .fetch s.priv = false → s.fetch = .error ⟨.instrAccessFault, word a⟩) ∧
            (w.physOk pb 2 .fetch s.priv = true →
              s.fetch = .ok (w, .long (parcelOf (w.fetchByte pb) (w.fetchByte (pb + 1)) ++ lo))))))) ∧
    (s.Untranslated → s.staleFetch = [] → s.physOk s.upc 2 .fetch s.priv = true →
      (let lo := parcelOf (s.mem.read s.upc) (s.mem.read (s.upc + 1))
       (lo.toNat % 4 ≠ 3 → s.fetch = .ok (s, .short lo)) ∧
       (lo.toNat % 4 = 3 →
         (s.physOk a 2 .fetch s.priv = true →
           s.fetch = .ok (s, .long (parcelOf (s.mem.read a) (s.mem.read (a + 1)) ++ lo))) ∧
         (s.physOk a 2 .fetch s.priv = false → s.fetch = .error ⟨.instrAccessFault, word a⟩))))

/-- A fetch that raises, and bits that are no instruction, are taken as exceptions by the step: the trap value is the
address, or the bits, where for a 16-bit parcel that no row has the model reports the parcel (log 17). That a fetch
which raises leaves nothing of its first parcel's page-table updates and cached translations, as the first clause says,
and one that does not raise leaves them, as the second says, is the model's choice, log 12. -/
def Obligations.FetchFaultsTrap : Prop :=
  ∀ s : State, s.waiting = false → (∀ j, ¬ s.Takes j) →
    (∀ e, s.fetch = .error e → ∃ t : State, step s = .next t.tick ∧
      Trapped s t false e.exc.code s.upc (e.tval.toNat % 2 ^ s.width)) ∧
    (∀ u b r, s.fetch = .ok (u, b) → decode s.cfg b = .error r →
      ∃ t : State, step s = .next t.tick ∧ Trapped u t false 2 u.upc b.toWord.toNat)

/-- The machine never stops: every step, from every state, has a next state, and no instruction is refused. -/
def Obligations.NothingStops : Prop :=
  (∀ s : State, ∃ t, step s = .next t) ∧ (∀ (i : Instr) (s : State), ∃ t, exec i s = .next t)

/-! ## Integer computation -/

/-- 40_rv32i.md rules R231 to R240. -/
def Obligations.RegisterArithmetic : Prop :=
  ∀ (s : State) (rd rs1 rs2 : Reg),
    GivesX (.add rd rs1 rs2) s 4 rd ((s.ux rs1 + s.ux rs2) % 2 ^ s.width) ∧
    GivesX (.sub rd rs1 rs2) s 4 rd (wrap s.width ((s.ux rs1 : Int) - s.ux rs2)) ∧
    GivesX (.sll rd rs1 rs2) s 4 rd (s.ux rs1 * 2 ^ (s.ux rs2 % s.width) % 2 ^ s.width) ∧
    GivesX (.slt rd rs1 rs2) s 4 rd (if s.ix rs1 < s.ix rs2 then 1 else 0) ∧
    GivesX (.sltu rd rs1 rs2) s 4 rd (if s.ux rs1 < s.ux rs2 then 1 else 0) ∧
    GivesX (.xor rd rs1 rs2) s 4 rd (s.ux rs1 ^^^ s.ux rs2) ∧
    GivesX (.srl rd rs1 rs2) s 4 rd (s.ux rs1 / 2 ^ (s.ux rs2 % s.width)) ∧
    GivesX (.sra rd rs1 rs2) s 4 rd (wrap s.width (s.ix rs1 / (2 : Int) ^ (s.ux rs2 % s.width))) ∧
    GivesX (.or rd rs1 rs2) s 4 rd (s.ux rs1 ||| s.ux rs2) ∧
    GivesX (.and rd rs1 rs2) s 4 rd (s.ux rs1 &&& s.ux rs2)

/-- 40_rv32i.md rules R241 to R251. -/
def Obligations.ImmediateArithmetic : Prop :=
  ∀ (s : State) (rd rs1 : Reg) (imm : BitVec 12) (shamt : BitVec 6) (up : BitVec 20),
    GivesX (.addi rd rs1 imm) s 4 rd (wrap s.width (s.ux rs1 + imm.toInt)) ∧
    GivesX (.slti rd rs1 imm) s 4 rd (if s.ix rs1 < imm.toInt then 1 else 0) ∧
    GivesX (.sltiu rd rs1 imm) s 4 rd (if s.ux rs1 < wrap s.width imm.toInt then 1 else 0) ∧
    GivesX (.xori rd rs1 imm) s 4 rd (s.ux rs1 ^^^ wrap s.width imm.toInt) ∧
    GivesX (.ori rd rs1 imm) s 4 rd (s.ux rs1 ||| wrap s.width imm.toInt) ∧
    GivesX (.andi rd rs1 imm) s 4 rd (s.ux rs1 &&& wrap s.width imm.toInt) ∧
    GivesX (.slli rd rs1 shamt) s 4 rd (s.ux rs1 * 2 ^ shamt.toNat % 2 ^ s.width) ∧
    GivesX (.srli rd rs1 shamt) s 4 rd (s.ux rs1 / 2 ^ shamt.toNat) ∧
    GivesX (.srai rd rs1 shamt) s 4 rd (wrap s.width (s.ix rs1 / (2 : Int) ^ shamt.toNat)) ∧
    GivesX (.lui rd up) s 4 rd (wrap s.width (up.toInt * 4096)) ∧
    GivesX (.auipc rd up) s 4 rd (s.fromPc (up.toInt * 4096))

/-- 41_rv64i.md rules R307 to R315: the operation on the low words, its 32-bit result sign-extended. -/
def Obligations.WordArithmetic : Prop :=
  ∀ (s : State) (rd rs1 rs2 : Reg) (imm : BitVec 12) (shamt : BitVec 5),
    GivesX (.addiw rd rs1 imm) s 4 rd (s.ofW (wrap 32 (s.uw rs1 + imm.toInt))) ∧
    GivesX (.slliw rd rs1 shamt) s 4 rd (s.ofW (s.uw rs1 * 2 ^ shamt.toNat % 2 ^ 32)) ∧
    GivesX (.srliw rd rs1 shamt) s 4 rd (s.ofW (s.uw rs1 / 2 ^ shamt.toNat)) ∧
    GivesX (.sraiw rd rs1 shamt) s 4 rd (s.ofW (wrap 32 (s.iw rs1 / (2 : Int) ^ shamt.toNat))) ∧
    GivesX (.addw rd rs1 rs2) s 4 rd (s.ofW ((s.uw rs1 + s.uw rs2) % 2 ^ 32)) ∧
    GivesX (.subw rd rs1 rs2) s 4 rd (s.ofW (wrap 32 ((s.uw rs1 : Int) - s.uw rs2))) ∧
    GivesX (.sllw rd rs1 rs2) s 4 rd (s.ofW (s.uw rs1 * 2 ^ (s.ux rs2 % 32) % 2 ^ 32)) ∧
    GivesX (.srlw rd rs1 rs2) s 4 rd (s.ofW (s.uw rs1 / 2 ^ (s.ux rs2 % 32))) ∧
    GivesX (.sraw rd rs1 rs2) s 4 rd (s.ofW (wrap 32 (s.iw rs1 / (2 : Int) ^ (s.ux rs2 % 32))))

/-- 42_m.md rules R334 to R338. -/
def Obligations.Multiply : Prop :=
  ∀ (s : State) (rd rs1 rs2 : Reg),
    GivesX (.mul rd rs1 rs2) s 4 rd (s.ux rs1 * s.ux rs2 % 2 ^ s.width) ∧
    GivesX (.mulh rd rs1 rs2) s 4 rd (wrap s.width (s.ix rs1 * s.ix rs2 / (2 : Int) ^ s.width)) ∧
    GivesX (.mulhsu rd rs1 rs2) s 4 rd (wrap s.width (s.ix rs1 * (s.ux rs2 : Int) / (2 : Int) ^ s.width)) ∧
    GivesX (.mulhu rd rs1 rs2) s 4 rd (s.ux rs1 * s.ux rs2 / 2 ^ s.width) ∧
    GivesX (.mulw rd rs1 rs2) s 4 rd (s.ofW (s.uw rs1 * s.uw rs2 % 2 ^ 32))

/-- 42_m.md rules R332, R340 to R347: division rounds toward zero, a zero divisor gives all ones and the dividend, the
signed overflow gives the dividend and 0. -/
def Obligations.Divide : Prop :=
  ∀ (s : State) (rd rs1 rs2 : Reg),
    GivesX (.div rd rs1 rs2) s 4 rd
      (if s.ux rs2 = 0 then 2 ^ s.width - 1
       else if s.ux rs1 = 2 ^ (s.width - 1) ∧ s.ix rs2 = -1 then s.ux rs1
       else wrap s.width ((s.ix rs1).tdiv (s.ix rs2))) ∧
    GivesX (.divu rd rs1 rs2) s 4 rd (if s.ux rs2 = 0 then 2 ^ s.width - 1 else s.ux rs1 / s.ux rs2) ∧
    GivesX (.rem rd rs1 rs2) s 4 rd
      (if s.ux rs2 = 0 then s.ux rs1
       else if s.ux rs1 = 2 ^ (s.width - 1) ∧ s.ix rs2 = -1 then 0
       else wrap s.width ((s.ix rs1).tmod (s.ix rs2))) ∧
    GivesX (.remu rd rs1 rs2) s 4 rd (if s.ux rs2 = 0 then s.ux rs1 else s.ux rs1 % s.ux rs2) ∧
    GivesX (.divw rd rs1 rs2) s 4 rd
      (s.ofW (if s.uw rs2 = 0 then 2 ^ 32 - 1
              else if s.uw rs1 = 2 ^ 31 ∧ s.iw rs2 = -1 then s.uw rs1
              else wrap 32 ((s.iw rs1).tdiv (s.iw rs2)))) ∧
    GivesX (.divuw rd rs1 rs2) s 4 rd (s.ofW (if s.uw rs2 = 0 then 2 ^ 32 - 1 else s.uw rs1 / s.uw rs2)) ∧
    GivesX (.remw rd rs1 rs2) s 4 rd
      (s.ofW (if s.uw rs2 = 0 then s.uw rs1
              else if s.uw rs1 = 2 ^ 31 ∧ s.iw rs2 = -1 then 0
              else wrap 32 ((s.iw rs1).tmod (s.iw rs2)))) ∧
    GivesX (.remuw rd rs1 rs2) s 4 rd (s.ofW (if s.uw rs2 = 0 then s.uw rs1 else s.uw rs1 % s.uw rs2))

/-- 45_c.md rules R510 to R549, the computing instructions: 2 bytes long. -/
def Obligations.CompressedArithmetic : Prop :=
  ∀ (s : State) (rd rs2 : Reg) (rd' rs2' : CReg) (imm : BitVec 6) (uimm : BitVec 6) (u8 : BitVec 8),
    GivesX (.cAddi4spn rd' u8) s 2 rd'.reg ((s.ux 2 + u8.toNat * 4) % 2 ^ s.width) ∧
    GivesX (.cAddi rd imm) s 2 rd (wrap s.width (s.ux rd + imm.toInt)) ∧
    GivesX (.cAddiw rd imm) s 2 rd (s.ofW (wrap 32 (s.uw rd + imm.toInt))) ∧
    GivesX (.cLi rd imm) s 2 rd (wrap s.width imm.toInt) ∧
    GivesX (.cAddi16sp imm) s 2 2 (wrap s.width (s.ux 2 + imm.toInt * 16)) ∧
    GivesX (.cLui rd imm) s 2 rd (wrap s.width (imm.toInt * 4096)) ∧
    GivesX (.cSrli rd' uimm) s 2 rd'.reg (s.ux rd'.reg / 2 ^ uimm.toNat) ∧
    GivesX (.cSrai rd' uimm) s 2 rd'.reg (wrap s.width (s.ix rd'.reg / (2 : Int) ^ uimm.toNat)) ∧
    GivesX (.cAndi rd' imm) s 2 rd'.reg (s.ux rd'.reg &&& wrap s.width imm.toInt) ∧
    GivesX (.cSub rd' rs2') s 2 rd'.reg (wrap s.width ((s.ux rd'.reg : Int) - s.ux rs2'.reg)) ∧
    GivesX (.cXor rd' rs2') s 2 rd'.reg (s.ux rd'.reg ^^^ s.ux rs2'.reg) ∧
    GivesX (.cOr rd' rs2') s 2 rd'.reg (s.ux rd'.reg ||| s.ux rs2'.reg) ∧
    GivesX (.cAnd rd' rs2') s 2 rd'.reg (s.ux rd'.reg &&& s.ux rs2'.reg) ∧
    GivesX (.cSubw rd' rs2') s 2 rd'.reg (s.ofW (wrap 32 ((s.uw rd'.reg : Int) - s.uw rs2'.reg))) ∧
    GivesX (.cAddw rd' rs2') s 2 rd'.reg (s.ofW ((s.uw rd'.reg + s.uw rs2'.reg) % 2 ^ 32)) ∧
    GivesX (.cSlli rd uimm) s 2 rd (s.ux rd * 2 ^ uimm.toNat % 2 ^ s.width) ∧
    GivesX (.cMv rd rs2) s 2 rd (s.ux rs2) ∧
    GivesX (.cAdd rd rs2) s 2 rd ((s.ux rd + s.ux rs2) % 2 ^ s.width) ∧
    Completes (.cNop imm) s (Effect.nothing (s.fromPc 2))

/-! ## Control flow -/

/-- 40_rv32i.md rules R261 to R267, 45_c.md rules R537, R538: taken, the branch goes to `pc` + offset, or raises with
that address when it is not aligned for an instruction; not taken, it goes on. -/
def Obligations.Branches : Prop :=
  ∀ (s : State) (rs1 rs2 : Reg) (r : CReg) (off : BitVec 12) (off8 : BitVec 8),
    let goes (i : Instr) (taken : Prop) (len target : Nat) : Prop :=
      (taken → target % s.ialign = 0 → Completes i s (Effect.nothing target)) ∧
      (taken → target % s.ialign ≠ 0 → Raises i s 0 target) ∧
      (¬ taken → Completes i s (Effect.nothing (s.fromPc len)))
    goes (.beq rs1 rs2 off) (s.ux rs1 = s.ux rs2) 4 (s.fromPc (off.toInt * 2)) ∧
    goes (.bne rs1 rs2 off) (s.ux rs1 ≠ s.ux rs2) 4 (s.fromPc (off.toInt * 2)) ∧
    goes (.blt rs1 rs2 off) (s.ix rs1 < s.ix rs2) 4 (s.fromPc (off.toInt * 2)) ∧
    goes (.bge rs1 rs2 off) (s.ix rs2 ≤ s.ix rs1) 4 (s.fromPc (off.toInt * 2)) ∧
    goes (.bltu rs1 rs2 off) (s.ux rs1 < s.ux rs2) 4 (s.fromPc (off.toInt * 2)) ∧
    goes (.bgeu rs1 rs2 off) (s.ux rs2 ≤ s.ux rs1) 4 (s.fromPc (off.toInt * 2)) ∧
    goes (.cBeqz r off8) (s.ux r.reg = 0) 2 (s.fromPc (off8.toInt * 2)) ∧
    goes (.cBnez r off8) (s.ux r.reg ≠ 0) 2 (s.fromPc (off8.toInt * 2))

/-- 40_rv32i.md rules R270, R271, 45_c.md rules R522, R536, R545, R548: the target, and the link; a target that is not
aligned for an instruction raises and links nothing. -/
def Obligations.Jumps : Prop :=
  ∀ (s : State) (rd rs1 : Reg) (off : BitVec 20) (imm : BitVec 12) (off11 : BitVec 11),
    let goes (i : Instr) (len : Nat) (link : Reg) (target : Nat) : Prop :=
      (target % s.ialign = 0 → JumpsTo i s len link target) ∧ (target % s.ialign ≠ 0 → Raises i s 0 target)
    let even (a : Nat) : Nat := a / 2 * 2
    goes (.jal rd off) 4 rd (s.fromPc (off.toInt * 2)) ∧
    goes (.jalr rd rs1 imm) 4 rd (even (s.eaOf rs1 imm.toInt)) ∧
    goes (.cJ off11) 2 0 (s.fromPc (off11.toInt * 2)) ∧
    goes (.cJal off11) 2 1 (s.fromPc (off11.toInt * 2)) ∧
    goes (.cJr rs1) 2 0 (even (s.ux rs1)) ∧
    goes (.cJalr rs1) 2 1 (even (s.ux rs1))

/-! ## Loads, stores, atomics -/

/-- 40_rv32i.md rules R252 to R257, 41_rv64i.md rules R304, R305, 45_c.md rules R512, R517, R542, R544: wherever
translation finds the bytes in main memory (`State.Found`). -/
def Obligations.IntegerLoads : Prop :=
  ∀ (s : State) (rd rs1 : Reg) (imm : BitVec 12) (rd' rs1' : CReg) (u5 : BitVec 5) (u6 : BitVec 6),
    let a := s.eaOf rs1 imm.toInt
    let c (n : Nat) := s.eaOf rs1'.reg (u5.toNat * n)
    let p (n : Nat) := s.eaOf 2 (u6.toNat * n)
    let whole (v : Nat) : Nat := v
    let cut (v : Nat) : Nat := v % 2 ^ s.width
    LoadsX (.lb rd rs1 imm) s 4 1 a rd (fun v => wrap s.width (signed 8 v)) ∧ LoadsX (.lbu rd rs1 imm) s 4 1 a rd whole ∧
    LoadsX (.lh rd rs1 imm) s 4 2 a rd (fun v => wrap s.width (signed 16 v)) ∧ LoadsX (.lhu rd rs1 imm) s 4 2 a rd whole ∧
    LoadsX (.lw rd rs1 imm) s 4 4 a rd s.ofW ∧ LoadsX (.lwu rd rs1 imm) s 4 4 a rd whole ∧
    LoadsX (.ld rd rs1 imm) s 4 8 a rd cut ∧
    LoadsX (.cLw rd' rs1' u5) s 2 4 (c 4) rd'.reg s.ofW ∧ LoadsX (.cLd rd' rs1' u5) s 2 8 (c 8) rd'.reg cut ∧
    LoadsX (.cLwsp rd u6) s 2 4 (p 4) rd s.ofW ∧ LoadsX (.cLdsp rd u6) s 2 8 (p 8) rd cut

/-- 40_rv32i.md rules R258 to R260, 41_rv64i.md rule R306, 45_c.md rules R515, R518, R551, R553: wherever translation
finds the bytes in main memory (`State.Found`). What a fetch sees of the bytes stored where the stale view is on
(`Did.fetched`) is the model's choice, log 14. -/
def Obligations.IntegerStores : Prop :=
  ∀ (s : State) (rs1 rs2 : Reg) (imm : BitVec 12) (rs1' rs2' : CReg) (u5 : BitVec 5) (u6 : BitVec 6),
    let a := s.eaOf rs1 imm.toInt
    let c (n : Nat) := s.eaOf rs1'.reg (u5.toNat * n)
    let p (n : Nat) := s.eaOf 2 (u6.toNat * n)
    Stores (.sb rs2 rs1 imm) s 4 1 a (s.ux rs2) ∧ Stores (.sh rs2 rs1 imm) s 4 2 a (s.ux rs2) ∧
    Stores (.sw rs2 rs1 imm) s 4 4 a (s.ux rs2) ∧ Stores (.sd rs2 rs1 imm) s 4 8 a (s.ux rs2) ∧
    Stores (.cSw rs2' rs1' u5) s 2 4 (c 4) (s.ux rs2'.reg) ∧ Stores (.cSd rs2' rs1' u5) s 2 8 (c 8) (s.ux rs2'.reg) ∧
    Stores (.cSwsp rs2 u6) s 2 4 (p 4) (s.ux rs2) ∧ Stores (.cSdsp rs2 u6) s 2 8 (p 8) (s.ux rs2)

/-- 44_fd.md rules R410 to R413, 45_c.md rules R511, R513, R514, R516, R541, R543, R550, R552: a single is loaded
boxed and stored from the low half unchecked, wherever translation finds the bytes in main memory (`State.Found`). What a
fetch sees of the bytes stored where the stale view is on (`Did.fetched`) is the model's choice, log 14. -/
def Obligations.FloatLoadsStores : Prop :=
  ∀ (s : State) (r rs1 : Reg) (imm : BitVec 12) (r' rs1' : CReg) (u5 : BitVec 5) (u6 : BitVec 6),
    let a := s.eaOf rs1 imm.toInt
    let c (n : Nat) := s.eaOf rs1'.reg (u5.toNat * n)
    let p (n : Nat) := s.eaOf 2 (u6.toNat * n)
    let single (i : Instr) (len a : Nat) (fd : Reg) : Prop := LoadsF i s len 4 a fd s.boxed
    let double (i : Instr) (len a : Nat) (fd : Reg) : Prop :=
      s.cfg.ext.d = true → LoadsF i s len 8 a fd (fun v => BitVec.ofNat 64 v)
    let put (i : Instr) (len n a : Nat) (fs : Reg) : Prop := Stores i s len n a (s.getF fs).toNat
    single (.flw r rs1 imm) 4 a r ∧ single (.cFlw r' rs1' u5) 2 (c 4) r'.reg ∧ single (.cFlwsp r u6) 2 (p 4) r ∧
    double (.fld r rs1 imm) 4 a r ∧ double (.cFld r' rs1' u5) 2 (c 8) r'.reg ∧ double (.cFldsp r u6) 2 (p 8) r ∧
    put (.fsw r rs1 imm) 4 4 a r ∧ put (.cFsw r' rs1' u5) 2 4 (c 4) r'.reg ∧ put (.cFswsp r u6) 2 4 (p 4) r ∧
    put (.fsd r rs1 imm) 4 8 a r ∧ put (.cFsd r' rs1' u5) 2 8 (c 8) r'.reg ∧ put (.cFsdsp r u6) 2 8 (p 8) r

/-- 43_a.md rules R363, R370 to R387: the old value, sign-extended, to `x[rd]`; the new one to memory, wherever translation
finds the bytes in main memory (`State.Found`). That the AMO clears the hart's own reservation on one of its bytes is the
model's choice, log 18. What a fetch sees of the bytes stored where the stale view is on (`Did.fetched`) is the model's
choice, log 14. -/
def Obligations.AtomicOperations : Prop :=
  ∀ (s : State) (rd rs1 rs2 : Reg) (aq rl : Bool),
    let a := s.ux rs1
    let b := s.ux rs2
    let bw := s.uw rs2
    let word (i : Instr) (new : Nat → Nat) : Prop := Swaps i s 4 a rd new s.ofW
    let double (i : Instr) (new : Nat → Nat) : Prop := s.cfg.xlen = .rv64 → Swaps i s 8 a rd new (fun d => d)
    word (.amoswapW rd rs2 rs1 aq rl) (fun _ => b) ∧
    word (.amoaddW rd rs2 rs1 aq rl) (fun w => w + b) ∧
    word (.amoxorW rd rs2 rs1 aq rl) (fun w => w ^^^ b) ∧
    word (.amoandW rd rs2 rs1 aq rl) (fun w => w &&& b) ∧
    word (.amoorW rd rs2 rs1 aq rl) (fun w => w ||| b) ∧
    word (.amominW rd rs2 rs1 aq rl) (fun w => if signed 32 w ≤ signed 32 bw then w else bw) ∧
    word (.amomaxW rd rs2 rs1 aq rl) (fun w => if signed 32 bw ≤ signed 32 w then w else bw) ∧
    word (.amominuW rd rs2 rs1 aq rl) (fun w => if w ≤ bw then w else bw) ∧
    word (.amomaxuW rd rs2 rs1 aq rl) (fun w => if bw ≤ w then w else bw) ∧
    double (.amoswapD rd rs2 rs1 aq rl) (fun _ => b) ∧
    double (.amoaddD rd rs2 rs1 aq rl) (fun d => d + b) ∧
    double (.amoxorD rd rs2 rs1 aq rl) (fun d => d ^^^ b) ∧
    double (.amoandD rd rs2 rs1 aq rl) (fun d => d &&& b) ∧
    double (.amoorD rd rs2 rs1 aq rl) (fun d => d ||| b) ∧
    double (.amominD rd rs2 rs1 aq rl) (fun d => if signed 64 d ≤ signed 64 b then d else b) ∧
    double (.amomaxD rd rs2 rs1 aq rl) (fun d => if signed 64 b ≤ signed 64 d then d else b) ∧
    double (.amominuD rd rs2 rs1 aq rl) (fun d => if d ≤ b then d else b) ∧
    double (.amomaxuD rd rs2 rs1 aq rl) (fun d => if b ≤ d then d else b)

/-- 43_a.md rules R365 to R369: wherever translation finds the bytes in main memory (`State.Found`), `lr` loads and
reserves its physical bytes; `sc` stores exactly when the reservation is those bytes, says so with 0, and drops the
reservation; where a spurious failure is allowed, a held reservation may fail too, as a free value says (the model's own
counter of draws: log 10). That a write of A and D bits by the translation breaks the reservation first is the model's
reading, log 18. What a fetch sees of the bytes stored where the stale view is on (`Did.fetched`) is the model's choice,
log 14. -/
def Obligations.LoadReservedStoreConditional : Prop :=
  ∀ (s : State) (rd rs1 rs2 : Reg) (aq rl : Bool),
    let a := s.ux rs1
    let reserves (i : Instr) (n : Nat) (extend : Nat → Nat) : Prop :=
      Accesses i s .loadReserved n a fun u at_ =>
        { Effect.nothing (s.fromPc 4) with
          x := some (rd, extend (u.bytesAt at_ n)), reservation := some (some ⟨at_ 0, n⟩) }
    let code := s.cfg.scFailCode.toNat % 2 ^ s.width
    let conditional (i : Instr) (n : Nat) : Prop :=
      ∀ u at_, s.Found .storeConditional a n u at_ →
        let succeeds (draws : Nat) : Prop :=
          CompletesIn i s u { Effect.nothing (s.fromPc 4) with
            x := some (rd, 0), stored := storedAt at_ (s.ux rs2) n, reservation := some none, draws := draws }
        let fails (draws : Nat) : Prop :=
          CompletesIn i s u { Effect.nothing (s.fromPc 4) with
            x := some (rd, code), reservation := some none, draws := draws }
        let held : Prop := u.reservation = some ⟨at_ 0, n⟩
        if s.cfg.scSpuriousFail then (held → succeeds 1 ∨ fails 1) ∧ (¬ held → fails 1)
        else (held → succeeds 0) ∧ (¬ held → fails 0)
    reserves (.lrW rd rs1 aq rl) 4 s.ofW ∧ (s.cfg.xlen = .rv64 → reserves (.lrD rd rs1 aq rl) 8 (fun v => v)) ∧
    conditional (.scW rd rs2 rs1 aq rl) 4 ∧ (s.cfg.xlen = .rv64 → conditional (.scD rd rs2 rs1 aq rl) 8)

/-- 20_memory.md rules R109, R110: a misaligned atomic raises, whatever misaligned accesses do otherwise, before any
translation; `lr` as a load, the others as stores. -/
def Obligations.MisalignedAtomicsRaise : Prop :=
  ∀ (s : State) (rd rs1 rs2 : Reg) (aq rl : Bool),
    (s.ux rs1 % 4 ≠ 0 →
      Raises (.lrW rd rs1 aq rl) s 4 (s.ux rs1) ∧
      ∀ i ∈ [Instr.scW rd rs2 rs1 aq rl, .amoswapW rd rs2 rs1 aq rl, .amoaddW rd rs2 rs1 aq rl,
             .amoxorW rd rs2 rs1 aq rl, .amoandW rd rs2 rs1 aq rl, .amoorW rd rs2 rs1 aq rl, .amominW rd rs2 rs1 aq rl,
             .amomaxW rd rs2 rs1 aq rl, .amominuW rd rs2 rs1 aq rl, .amomaxuW rd rs2 rs1 aq rl],
        Raises i s 6 (s.ux rs1)) ∧
    (s.ux rs1 % 8 ≠ 0 →
      Raises (.lrD rd rs1 aq rl) s 4 (s.ux rs1) ∧
      ∀ i ∈ [Instr.scD rd rs2 rs1 aq rl, .amoswapD rd rs2 rs1 aq rl, .amoaddD rd rs2 rs1 aq rl,
             .amoxorD rd rs2 rs1 aq rl, .amoandD rd rs2 rs1 aq rl, .amoorD rd rs2 rs1 aq rl, .amominD rd rs2 rs1 aq rl,
             .amomaxD rd rs2 rs1 aq rl, .amominuD rd rs2 rs1 aq rl, .amomaxuD rd rs2 rs1 aq rl],
        Raises i s 6 (s.ux rs1))

/-- 20_memory.md rules R108, R110: where misaligned accesses are not supported, ordinary ones raise too, before any
translation; the compressed forms like the others. -/
def Obligations.MisalignedAccessesRaise : Prop :=
  ∀ (s : State) (r rs1 : Reg) (imm : BitVec 12) (r' rs1' : CReg) (u5 : BitVec 5) (u6 : BitVec 6),
    let raises (code n a : Nat) (l : List Instr) : Prop := ∀ i ∈ l, a % n ≠ 0 → Raises i s code a
    let a := s.eaOf rs1 imm.toInt
    let c (n : Nat) := s.eaOf rs1'.reg (u5.toNat * n)
    let p (n : Nat) := s.eaOf 2 (u6.toNat * n)
    s.cfg.misalignedOk = false →
    raises 4 2 a [.lh r rs1 imm, .lhu r rs1 imm] ∧ raises 6 2 a [.sh r rs1 imm] ∧
    raises 4 4 a [.lw r rs1 imm, .lwu r rs1 imm, .flw r rs1 imm] ∧ raises 6 4 a [.sw r rs1 imm, .fsw r rs1 imm] ∧
    raises 4 8 a [.ld r rs1 imm, .fld r rs1 imm] ∧ raises 6 8 a [.sd r rs1 imm, .fsd r rs1 imm] ∧
    raises 4 4 (c 4) [.cLw r' rs1' u5, .cFlw r' rs1' u5] ∧ raises 6 4 (c 4) [.cSw r' rs1' u5, .cFsw r' rs1' u5] ∧
    raises 4 8 (c 8) [.cLd r' rs1' u5, .cFld r' rs1' u5] ∧ raises 6 8 (c 8) [.cSd r' rs1' u5, .cFsd r' rs1' u5] ∧
    raises 4 4 (p 4) [.cLwsp r u6, .cFlwsp r u6] ∧ raises 6 4 (p 4) [.cSwsp r u6, .cFswsp r u6] ∧
    raises 4 8 (p 8) [.cLdsp r u6, .cFldsp r u6] ∧ raises 6 8 (p 8) [.cSdsp r u6, .cFsdsp r u6]

/-- 20_memory.md rules R108, R110, R113, R126, R130, R135: an access whose translation fails raises the page fault or the
access fault of its kind, and one that fails a physical check the access fault, with its virtual address when it is
aligned; when it is misaligned and such accesses are supported, with the address of the first byte that fails. For every
load, store and atomic, in every mode, paged or not. That nothing stands of the page-table updates and cached
translations made before is the model's choice, log 12. -/
def Obligations.AccessFaultsRaise : Prop :=
  ∀ (s : State) (r rs1 rs2 : Reg) (imm : BitVec 12) (r' rs1' : CReg) (u5 : BitVec 5) (u6 : BitVec 6) (aq rl : Bool),
    let fails (i : Instr) (t : Access) (page access n a : Nat) : Prop :=
      let stops (u : State) (b m : Nat) : Prop :=
        (∀ v, u.translate s.priv t (BitVec.ofNat 64 b) = .error ⟨t.pageFault, v⟩ → Raises i s page b) ∧
        (∀ v, u.translate s.priv t (BitVec.ofNat 64 b) = .error ⟨t.accessFault, v⟩ → Raises i s access b) ∧
        (∀ w pa, u.translate s.priv t (BitVec.ofNat 64 b) = .ok (w, pa) → w.physOk pa m t s.priv = false →
          Raises i s access b)
      (a % n = 0 → stops s a n) ∧
      (a % n ≠ 0 → t.atomic = false → s.cfg.misalignedOk = true →
        ∀ k u at_, k < n → s.FoundBytes t a at_ k u → stops u (s.byteAddr a k) 1)
    let load (n a : Nat) (i : Instr) : Prop := fails i .load 13 5 n a
    let store (n a : Nat) (i : Instr) : Prop := fails i .store 15 7 n a
    let a := s.eaOf rs1 imm.toInt
    let c (n : Nat) := s.eaOf rs1'.reg (u5.toNat * n)
    let p (n : Nat) := s.eaOf 2 (u6.toNat * n)
    (∀ i ∈ [Instr.lb r rs1 imm, .lbu r rs1 imm], load 1 a i) ∧
    (∀ i ∈ [Instr.lh r rs1 imm, .lhu r rs1 imm], load 2 a i) ∧
    (∀ i ∈ [Instr.lw r rs1 imm, .lwu r rs1 imm, .flw r rs1 imm], load 4 a i) ∧
    (∀ i ∈ [Instr.ld r rs1 imm, .fld r rs1 imm], load 8 a i) ∧
    store 1 a (.sb r rs1 imm) ∧ store 2 a (.sh r rs1 imm) ∧
    (∀ i ∈ [Instr.sw r rs1 imm, .fsw r rs1 imm], store 4 a i) ∧
    (∀ i ∈ [Instr.sd r rs1 imm, .fsd r rs1 imm], store 8 a i) ∧
    (∀ i ∈ [Instr.cLw r' rs1' u5, .cFlw r' rs1' u5], load 4 (c 4) i) ∧
    (∀ i ∈ [Instr.cLd r' rs1' u5, .cFld r' rs1' u5], load 8 (c 8) i) ∧
    (∀ i ∈ [Instr.cSw r' rs1' u5, .cFsw r' rs1' u5], store 4 (c 4) i) ∧
    (∀ i ∈ [Instr.cSd r' rs1' u5, .cFsd r' rs1' u5], store 8 (c 8) i) ∧
    (∀ i ∈ [Instr.cLwsp r u6, .cFlwsp r u6], load 4 (p 4) i) ∧
    (∀ i ∈ [Instr.cLdsp r u6, .cFldsp r u6], load 8 (p 8) i) ∧
    (∀ i ∈ [Instr.cSwsp r u6, .cFswsp r u6], store 4 (p 4) i) ∧
    (∀ i ∈ [Instr.cSdsp r u6, .cFsdsp r u6], store 8 (p 8) i) ∧
    fails (.lrW r rs1 aq rl) .loadReserved 13 5 4 (s.ux rs1) ∧ fails (.lrD r rs1 aq rl) .loadReserved 13 5 8 (s.ux rs1) ∧
    fails (.scW r rs2 rs1 aq rl) .storeConditional 15 7 4 (s.ux rs1) ∧
    fails (.scD r rs2 rs1 aq rl) .storeConditional 15 7 8 (s.ux rs1) ∧
    (∀ i ∈ [Instr.amoswapW r rs2 rs1 aq rl, .amoaddW r rs2 rs1 aq rl, .amoxorW r rs2 rs1 aq rl, .amoandW r rs2 rs1 aq rl,
            .amoorW r rs2 rs1 aq rl, .amominW r rs2 rs1 aq rl, .amomaxW r rs2 rs1 aq rl, .amominuW r rs2 rs1 aq rl,
            .amomaxuW r rs2 rs1 aq rl],
      fails i .amo 15 7 4 (s.ux rs1)) ∧
    (∀ i ∈ [Instr.amoswapD r rs2 rs1 aq rl, .amoaddD r rs2 rs1 aq rl, .amoxorD r rs2 rs1 aq rl, .amoandD r rs2 rs1 aq rl,
            .amoorD r rs2 rs1 aq rl, .amominD r rs2 rs1 aq rl, .amomaxD r rs2 rs1 aq rl, .amominuD r rs2 rs1 aq rl,
            .amomaxuD r rs2 rs1 aq rl],
      fails i .amo 15 7 8 (s.ux rs1))

/-- 20_memory.md rules R125, R128: the lowest-numbered enabled PMP entry that holds a byte of the access decides; with
none, machine mode passes and the other modes pass only on a hart without PMP. -/
def Obligations.PmpCheck : Prop :=
  ∀ (s : State) (pa n : Nat) (t : Access) (p : Priv),
    let on (j : Nat) : Prop := j < s.cfg.pmpEntries ∧ (s.pmpCfgAt j).toNat / 8 % 4 = 1
    let holds (j b : Nat) : Prop := (if j = 0 then 0 else s.pmpAddrAt (j - 1)) ≤ b / 4 ∧ b / 4 < s.pmpAddrAt j
    let meets (j : Nat) : Prop := ∃ k, k < n ∧ holds j (pa + k)
    (∀ j, on j → meets j → (∀ i, i < j → on i → ¬ meets i) →
      (s.pmpOk pa n t p = true ↔
        (∀ k, k < n → holds j (pa + k)) ∧
        ((p = .m ∧ (s.pmpCfgAt j).toNat / 128 = 0) ∨
          t.granted ((s.pmpCfgAt j).getLsbD 0) ((s.pmpCfgAt j).getLsbD 1) ((s.pmpCfgAt j).getLsbD 2) = true))) ∧
    ((∀ j, on j → ¬ meets j) → (s.pmpOk pa n t p = true ↔ p = .m ∨ s.cfg.pmpEntries = 0))

/-- 20_memory.md rules R110, R127, R130 to R133, R135 to R138: physical addresses are themselves; an error of a translation
is the page fault or the access fault of the access with the virtual address. A Sv32 or Sv39 walk goes down from the root
through pointers to the entry at level `i`; `pteRead` says what reading an entry is. The entry can be unreadable, not
valid, a pointer at the last level, or a leaf; a leaf can be forbidden by the permission test, be a misaligned superpage,
need its A or D bit set, and else gives the physical address. That the write of A and D bits breaks a reservation on the
entry is the model's reading, log 18; that it enters the stale view of fetches where that is on, when a cached leaf is used
in place of a walk (`hits`), and what a walk adds to the cached translations (`filled`), is the model's choice, log 14. -/
def Obligations.PageTableWalk : Prop :=
  ∀ (s : State) (t : Access) (p : Priv) (va : Word) (i : Nat) (ptes : Nat → Word),
    let x := s.cfg.xlen
    let n : Nat := if x = .rv32 then 4 else 8
    let bits : Nat := if x = .rv32 then 10 else 9
    let top : Nat := if x = .rv32 then 1 else 2
    let field : Nat := if x = .rv32 then 22 else 44
    let ppn (pte : Word) : Nat := pte.toNat / 2 ^ 10 % 2 ^ field
    let page (i : Nat) : Nat := 2 ^ (12 + bits * i)
    let root : Nat := s.satp.toNat % 2 ^ field * 4096
    let at_ (j : Nat) : Nat := (if j = top then root else ppn (ptes (j + 1)) * 4096) + va.toNat / page j % 2 ^ bits * n
    let canon : Prop := x = .rv32 ∨ va.toNat < 2 ^ 38 ∨ 2 ^ 64 - 2 ^ 38 ≤ va.toNat
    let leaf (e : Word) : Prop :=
      e.getLsbD 0 = true ∧ (e.getLsbD 1 = true ∨ e.getLsbD 2 = false) ∧ (e.getLsbD 1 = true ∨ e.getLsbD 3 = true)
    let allowed (e : Word) : Prop :=
      (match t with
        | .fetch => e.getLsbD 3 = true
        | .load | .loadReserved => e.getLsbD 1 = true ∨ (s.mstatus.mxr = true ∧ e.getLsbD 3 = true)
        | .store | .storeConditional | .amo => e.getLsbD 2 = true) ∧
      (if p = .u then e.getLsbD 4 = true else e.getLsbD 4 = false ∨ (s.mstatus.sum = true ∧ t ≠ .fetch))
    let aligned (e : Word) (i : Nat) : Prop := ppn e % 2 ^ (bits * i) = 0
    let stale (e : Word) : Prop := e.getLsbD 6 = false ∨ (t.writes = true ∧ e.getLsbD 7 = false)
    let touched (e : Word) : Word := e ||| (if t.writes then 0xc0#64 else 0x40#64)
    let pa (e : Word) (i : Nat) : Nat := ppn e / 2 ^ (bits * i) * page i + va.toNat % page i
    let hits (c : TlbEntry) : Prop :=
      va.toNat / page c.level = c.page.toNat / page c.level ∧
      (c.pte.getLsbD 5 = true ∨ c.asid = satpAsid x s.satp) ∧ ¬ stale c.pte
    let filled (u : State) (e : Word) : State :=
      if s.cfg.tlbCaches then
        { u with tlb := ⟨BitVec.ofNat 64 (va.toNat / page i * page i), i, satpAsid x s.satp, e⟩ :: u.tlb }
      else u
    let e := ptes i
    let pageFault := s.translate p t va = .error ⟨t.pageFault, va⟩
    let accessFault := s.translate p t va = .error ⟨t.accessFault, va⟩
    (s.Untranslated → s.translate s.priv t va = .ok (s, va.toNat)) ∧
    (∀ f, s.translate p t va = .error f → f = ⟨t.pageFault, va⟩ ∨ f = ⟨t.accessFault, va⟩) ∧
    (∀ a, s.pteRead a =
      if s.physOk a n .load .s = true ∧ ∀ k, k < n → deviceAt s.cfg (a + k) = false then
        some (BitVec.ofNat 64 (s.mem.readAt (addrsFrom a n))) else none) ∧
    (s.cfg.modes.hasS = true → p ≠ .m → s.satp.toNat / 2 ^ (if x = .rv32 then 31 else 60) % 16 = (if x = .rv32 then 1 else 8) →
      s.satp.toNat < 2 ^ x.bits →
      (¬ canon → pageFault) ∧
      (∀ before c after, canon → s.tlb = before ++ c :: after → (∀ b ∈ before, ¬ hits b) → hits c →
        (allowed c.pte ∧ aligned c.pte c.level → s.translate p t va = .ok (s, pa c.pte c.level)) ∧
        (¬ (allowed c.pte ∧ aligned c.pte c.level) → pageFault)) ∧
      (canon → (∀ c ∈ s.tlb, ¬ hits c) → i ≤ top →
        (∀ j, i < j → j ≤ top → s.pteRead (at_ j) = some (ptes j) ∧ (ptes j).toNat % 16 = 1) →
        (s.pteRead (at_ i) = none → accessFault) ∧
        (s.pteRead (at_ i) = some e →
          (e.getLsbD 0 = false ∨ (e.getLsbD 1 = false ∧ e.getLsbD 2 = true) → pageFault) ∧
          (i = 0 → e.getLsbD 1 = false → e.getLsbD 3 = false → pageFault) ∧
          (leaf e →
            (¬ allowed e ∨ ¬ aligned e i → pageFault) ∧
            (allowed e → aligned e i →
              (¬ stale e → s.translate p t va = .ok (filled s e, pa e i)) ∧
              (stale e → s.cfg.pteAdHw = false → pageFault) ∧
              (stale e → s.cfg.pteAdHw = true → s.physOk (at_ i) n .store .s = false → accessFault) ∧
              (stale e → s.cfg.pteAdHw = true → s.physOk (at_ i) n .store .s = true →
                s.translate p t va =
                  .ok (filled (s.storeBytes (addrsFrom (at_ i) n) (touched e).toNat) (touched e), pa e i)))))))

/-- 60_exceptions.md rules R745 to R747, 10_state.md rules R52, R62, 43_a.md rule R365: `mtime`, `mtimecmp` and `msip` under
the integer loads and stores of 4 and 8 bytes, wherever translation and PMP let them reach the registers, with both halves
of the first two; a store breaks a reservation on its bytes as any store does; and the bits of `mip` that follow them.
And of a device that the spec does not describe: a load completes with a value that is free, a store completes and
changes nothing that the hart holds; both are the model's choice, logs 6 and 10. That a mode below M may reach `mtime` and
`mtimecmp` is log 6's. -/
def Obligations.TimerRegisters : Prop :=
  (∀ (s : State) (r rs1 : Reg) (imm : BitVec 12) (r' rs1' : CReg) (u5 : BitVec 5) (u6 : BitVec 6), RegistersApart s.cfg →
    let a := s.eaOf rs1 imm.toInt
    let c (n : Nat) := s.eaOf rs1'.reg (u5.toNat * n)
    let p (n : Nat) := s.eaOf 2 (u6.toNat * n)
    let low (v : Nat) : Nat := v % 2 ^ 32
    let high (v : Nat) : Nat := v / 2 ^ 32
    let both (h l : Nat) : Nat := h * 2 ^ 32 + l
    let whole (v : Nat) : Nat := v
    let reaches (t : Access) (n va pa : Nat) (u : State) : Prop :=
      va % n = 0 ∧ s.translate s.priv t (BitVec.ofNat 64 va) = .ok (u, pa) ∧ u.pmpOk pa n t s.priv = true
    let load (i : Instr) (len n va : Nat) (rd : Reg) (extend : Nat → Nat) (pa : Nat) (value : State → Nat) : Prop :=
      ∀ u, reaches .load n va pa u →
        CompletesIn i s u { Effect.nothing (s.fromPc len) with x := some (rd, extend (value u)) }
    let reads4 (pa : Nat) (value : State → Nat) : Prop :=
      load (.lw r rs1 imm) 4 4 a r s.ofW pa value ∧ load (.lwu r rs1 imm) 4 4 a r whole pa value ∧
      load (.cLw r' rs1' u5) 2 4 (c 4) r'.reg s.ofW pa value ∧ load (.cLwsp r u6) 2 4 (p 4) r s.ofW pa value
    let reads8 (pa : Nat) (value : State → Nat) : Prop := s.cfg.xlen = .rv64 →
      load (.ld r rs1 imm) 4 8 a r whole pa value ∧ load (.cLd r' rs1' u5) 2 8 (c 8) r'.reg whole pa value ∧
      load (.cLdsp r u6) 2 8 (p 8) r whole pa value
    let store (i : Instr) (len n va pa : Nat) (new : Nat × Nat × Bool) : Prop :=
      ∀ u, reaches .store n va pa u →
        ∃ t, exec i s = .next t ∧ (t.mtime.toNat, t.mtimecmp.toNat, t.msip) = new ∧ t.pc.toNat = s.fromPc len ∧
          (let hit : Prop := ∃ v k, u.reservation = some v ∧ k < n ∧ v.addr ≤ pa + k ∧ pa + k < v.addr + v.size
           (hit → t.reservation = none) ∧ (¬ hit → t.reservation = u.reservation)) ∧
          t = { u with mtime := t.mtime, mtimecmp := t.mtimecmp, msip := t.msip, reservation := t.reservation, pc := t.pc,
                       instret := u.instret + 1 }
    let writes4 (pa : Nat) (new : Nat → Nat × Nat × Bool) : Prop :=
      store (.sw r rs1 imm) 4 4 a pa (new (s.ux r)) ∧ store (.cSw r' rs1' u5) 2 4 (c 4) pa (new (s.ux r'.reg)) ∧
      store (.cSwsp r u6) 2 4 (p 4) pa (new (s.ux r))
    let writes8 (pa : Nat) (new : Nat → Nat × Nat × Bool) : Prop := s.cfg.xlen = .rv64 →
      store (.sd r rs1 imm) 4 8 a pa (new (s.ux r)) ∧ store (.cSd r' rs1' u5) 2 8 (c 8) pa (new (s.ux r'.reg)) ∧
      store (.cSdsp r u6) 2 8 (p 8) pa (new (s.ux r))
    let time := s.mtime.toNat
    let limit := s.mtimecmp.toNat
    (reads4 s.cfg.mtimeAddr (fun u => low u.mtime.toNat) ∧ reads4 (s.cfg.mtimeAddr + 4) (fun u => high u.mtime.toNat) ∧
      reads8 s.cfg.mtimeAddr (fun u => u.mtime.toNat)) ∧
    (reads4 s.cfg.mtimecmpAddr (fun u => low u.mtimecmp.toNat) ∧
      reads4 (s.cfg.mtimecmpAddr + 4) (fun u => high u.mtimecmp.toNat) ∧
      reads8 s.cfg.mtimecmpAddr (fun u => u.mtimecmp.toNat)) ∧
    reads4 s.cfg.msipAddr (fun u => if u.msip then 1 else 0) ∧
    (writes4 s.cfg.mtimeAddr (fun v => (both (high time) (low v), limit, s.msip)) ∧
      writes4 (s.cfg.mtimeAddr + 4) (fun v => (both (low v) (low time), limit, s.msip)) ∧
      writes8 s.cfg.mtimeAddr (fun v => (v, limit, s.msip))) ∧
    (writes4 s.cfg.mtimecmpAddr (fun v => (time, both (high limit) (low v), s.msip)) ∧
      writes4 (s.cfg.mtimecmpAddr + 4) (fun v => (time, both (low v) (low limit), s.msip)) ∧
      writes8 s.cfg.mtimecmpAddr (fun v => (time, v, s.msip))) ∧
    writes4 s.cfg.msipAddr (fun v => (time, limit, decide (v % 2 = 1)))) ∧
  (∀ (s u : State) (r rs1 : Reg) (pa : Nat), s.ux rs1 % 4 = 0 →
    (∀ k, k < 4 → inDevice s.cfg (pa + k) = false ∧ onDevice s.cfg (pa + k) = true) →
    (s.translate s.priv .load (BitVec.ofNat 64 (s.ux rs1)) = .ok (u, pa) → u.physOk pa 4 .load s.priv = true →
      ∃ t, exec (.lw r rs1 0) s = .next t ∧ (∀ q, q ≠ r → t.ux q = s.ux q) ∧ t.pc.toNat = s.fromPc 4 ∧
        t = { u with x := t.x, free := s.free + 1, pc := t.pc, instret := s.instret + 1 }) ∧
    (s.translate s.priv .store (BitVec.ofNat 64 (s.ux rs1)) = .ok (u, pa) → u.physOk pa 4 .store s.priv = true →
      ∃ t, exec (.sw r rs1 0) s = .next t ∧ t.pc.toNat = s.fromPc 4 ∧ (∀ b, t.mem.read b = u.mem.read b) ∧
        t = { u with staleFetch := t.staleFetch, reservation := t.reservation, pc := t.pc,
                     instret := s.instret + 1 })) ∧
  (∀ s : State, (s.csrRead .mip).getLsbD 7 = decide (s.mtimecmp.toNat < s.mtime.toNat) ∧
    (s.csrRead .mip).getLsbD 3 = s.msip ∧ (s.csrRead .mip).getLsbD 11 = s.meipLine)

/-! ## Ordering, calls, control and status registers -/

/-- 40_rv32i.md rules R276, R277, 47_privileged.md rule R624: `fence` only goes on; `fence.i` makes fetches see
memory; `sfence.vma` drops the cached translations that its registers select, and is illegal in user mode or without
S-mode. What the stale view and the cache hold is the model's choice, log 14. -/
def Obligations.Fences : Prop :=
  ∀ (s : State) (rs1 rs2 : Reg) (pred succ : BitVec 4),
    Completes (.fence pred succ) s (Effect.nothing (s.fromPc 4)) ∧
    (∃ t, exec .fenceI s = .next t ∧ (∀ a, t.fetchByte a = t.mem.read a) ∧ t.pc.toNat = s.fromPc 4 ∧
      t = { s with staleFetch := [], pc := t.pc, instret := s.instret + 1 }) ∧
    (if s.cfg.modes.hasS = true ∧ s.priv ≠ .u then
      ∃ t, exec (.sfenceVma rs1 rs2) s = .next t ∧ t.pc.toNat = s.fromPc 4 ∧
        t = { s with tlb := t.tlb, pc := t.pc, instret := s.instret + 1 } ∧
        ∀ e, e ∈ t.tlb ↔ e ∈ s.tlb ∧
          ¬ ((rs1 = 0 ∨ s.ux rs1 / pageBytes s.cfg.xlen e.level = e.page.toNat / pageBytes s.cfg.xlen e.level) ∧
             (rs2 = 0 ∨ (e.asid = s.ux rs2 ∧ pteG e.pte = false)))
     else IsIllegal (.sfenceVma rs1 rs2) s)

/-- 40_rv32i.md rules R278, R279, 45_c.md rule R547: the cause by the mode, the trap value 0. -/
def Obligations.EnvironmentCalls : Prop :=
  ∀ s : State,
    (s.priv = .u → Raises .ecall s 8 0) ∧ (s.priv = .s → Raises .ecall s 9 0) ∧ (s.priv = .m → Raises .ecall s 11 0) ∧
    Raises .ebreak s 3 0 ∧ Raises .cEbreak s 3 0

/-- 60_exceptions.md rules R720 to R723: what taking any trap does, to machine mode or, delegated, to supervisor mode.
-/
def Obligations.TrapEntry : Prop :=
  ∀ (s : State) (isInt : Bool) (code : Nat) (tval : Word), code < 16 →
    Trapped s (s.takeTrap isInt code s.getPc tval) isInt code s.upc (tval.toNat % 2 ^ s.width)

/-- 47_privileged.md rules R621, R622: the return instructions, returning from a trap, and where it is illegal. -/
def Obligations.TrapReturns : Prop :=
  encode .mret = .long 0x30200073#32 ∧ encode .sret = .long 0x10200073#32 ∧
  ∀ s : State,
    (if s.priv = .m then
      ∃ t, exec .mret s = .next t ∧ t.pc.toNat = (s.csrRead .mepc).toNat ∧ t.priv = s.mppField ∧
        t = { s with
                pc := t.pc, priv := t.priv, instret := s.instret + 1
                mstatus := { s.mstatus with mie := s.mstatus.mpie, mpie := true,
                                            mpp := if s.cfg.modes.hasU then .u else .m } }
     else IsIllegal .mret s) ∧
    (if s.cfg.modes.hasS = true ∧ s.priv ≠ .u then
      ∃ t, exec .sret s = .next t ∧ t.pc.toNat = (s.csrRead .sepc).toNat ∧
        t.priv = (if s.mstatus.spp then .s else .u) ∧
        t = { s with
                pc := t.pc, priv := t.priv, instret := s.instret + 1
                mstatus := { s.mstatus with sie := s.mstatus.spie, spie := true, spp := false } }
     else IsIllegal .sret s)

/-- 47_privileged.md rule R623: `wfi` completes at once when it acts as a no-op or an enabled interrupt is pending,
else the hart waits at it; a waiting hart stays until one is, and then passes it. That the wait ends in a step of its
own is the model's choice, log 8. -/
def Obligations.WaitForInterrupt : Prop :=
  ∀ s : State,
    let due : Prop := ∃ i : Intr, (s.csrRead .mip).getLsbD i.code = true ∧ (s.csrRead .mie).getLsbD i.code = true
    (s.priv = .u → IsIllegal .wfi s) ∧
    (s.priv ≠ .u → s.cfg.wfiNop = true ∨ due → Completes .wfi s (Effect.nothing (s.fromPc 4))) ∧
    (s.priv ≠ .u → s.cfg.wfiNop = false → ¬ due → exec .wfi s = .next { s with waiting := true }) ∧
    (s.waiting = true → ¬ due → step s = .next s.tick) ∧
    (s.waiting = true → due → ∃ t : State, step s = .next t.tick ∧ t.pc.toNat = s.fromPc 4 ∧
      t = { s with waiting := false, pc := t.pc, instret := s.instret + 1 })

/-- 40_rv32i.md rules R280 to R286, 10_state.md rules R42 to R44: the register that each number names, and where it
exists; what is read, what is written, and the accesses that are illegal. A source `x0` or an immediate 0 makes the
setting and clearing forms reads only. That a register of an absent mode, extension or PMP entry does not exist is
read from the rules, log 7. -/
def Obligations.CsrInstructions : Prop :=
  (∀ c : Config,
    let named : List (Nat × Csr × Bool) :=
      [(0x001, .fflags, c.hasF), (0x002, .frm, c.hasF), (0x003, .fcsr, c.hasF),
       (0xc00, .cycle, true), (0xc01, .time, true), (0xc02, .instret, true),
       (0xc80, .cycleh, c.xlen == .rv32), (0xc81, .timeh, c.xlen == .rv32), (0xc82, .instreth, c.xlen == .rv32),
       (0x100, .sstatus, c.modes.hasS), (0x104, .sie, c.modes.hasS), (0x105, .stvec, c.modes.hasS),
       (0x140, .sscratch, c.modes.hasS), (0x141, .sepc, c.modes.hasS), (0x142, .scause, c.modes.hasS),
       (0x143, .stval, c.modes.hasS), (0x144, .sip, c.modes.hasS), (0x180, .satp, c.modes.hasS),
       (0x300, .mstatus, true), (0x302, .medeleg, c.modes.hasS), (0x303, .mideleg, c.modes.hasS), (0x304, .mie, true),
       (0x305, .mtvec, true), (0x340, .mscratch, true), (0x341, .mepc, true), (0x342, .mcause, true),
       (0x343, .mtval, true), (0x344, .mip, true)]
    (∀ e ∈ named, csrOf c (BitVec.ofNat 12 e.1) = if e.2.2 then some e.2.1 else none) ∧
    (∀ k : Fin 4, csrOf c (BitVec.ofNat 12 (0x3a0 + k.val)) =
      if 4 * k.val < c.pmpEntries ∧ (c.xlen = .rv32 ∨ k.val % 2 = 0) then some (.pmpcfg k) else none) ∧
    (∀ i : Fin 16, csrOf c (BitVec.ofNat 12 (0x3b0 + i.val)) =
      if i.val < c.pmpEntries then some (.pmpaddr i) else none) ∧
    (∀ a : BitVec 12, (∀ e ∈ named, a.toNat ≠ e.1) → ¬ (0x3a0 ≤ a.toNat ∧ a.toNat < 0x3a4) →
      ¬ (0x3b0 ≤ a.toNat ∧ a.toNat < 0x3c0) →
      csrOf c a = if c.ext.v = true ∧ c.vcfgdCsr = some a then some .vcfgd else none)) ∧
  ∀ (s : State) (rd rs1 : Reg) (a : BitVec 12) (zimm : BitVec 5),
    let does (i : Instr) (writes : Bool) (new : Word → Word) : Prop :=
      (∀ r, s.MayAccess a writes r →
        AccessesCsr i s rd r (if writes then some (new (s.csrRead r)) else none)) ∧
      ((∀ r, ¬ s.MayAccess a writes r) → IsIllegal i s)
    does (.csrrw rd a rs1) true (fun _ => s.getX rs1) ∧
    does (.csrrs rd a rs1) (decide (rs1 ≠ 0)) (fun t => t ||| s.getX rs1) ∧
    does (.csrrc rd a rs1) (decide (rs1 ≠ 0)) (fun t => t &&& ~~~s.getX rs1) ∧
    does (.csrrwi rd a zimm) true (fun _ => zimm.setWidth 64) ∧
    does (.csrrsi rd a zimm) (decide (zimm ≠ 0)) (fun t => t ||| zimm.setWidth 64) ∧
    does (.csrrci rd a zimm) (decide (zimm ≠ 0)) (fun t => t &&& ~~~(zimm.setWidth 64))

/-- 10_state.md rules R33, R36, R49 to R58, R60, R61: what a register reads as, and after a value was written to it. That
a write of `sip` made in machine mode reaches all the delegated bits, that RV64 keeps 54 bits of `pmpaddr`, that a locked
entry locks the address below it whatever its A field, and that in a `pmpcfg` which exists the byte of an entry that the
hart does not implement reads 0 and ignores writes, is the model's choice, log 7. -/
def Obligations.CsrReadBack : Prop :=
  ∀ (s : State) (v : Word),
    let V := v.toNat % 2 ^ s.width
    let after (r : Csr) : State := s.csrWrite r v
    let back (r : Csr) : Nat := ((after r).csrRead r).toNat
    let asid (n : Nat) : Nat := V / 2 ^ n % 2 ^ s.cfg.asidBits
    (∀ r ∈ [Csr.mscratch, .sscratch, .mcause, .scause, .mtval, .stval], back r = V) ∧
    back .mepc = V / s.ialign * s.ialign ∧ back .sepc = V / s.ialign * s.ialign ∧
    back .fflags = V % 32 ∧ back .frm = V % 8 ∧ back .fcsr = V % 256 ∧
    back .medeleg = V &&& 0xb3ff ∧ back .mideleg = V &&& 0x222 ∧
    back .mie = V &&& (if s.cfg.modes.hasS then 0xaaa else 0x888) ∧
    (V % 4 = 0 ∨ (V % 4 = 1 ∧ s.cfg.vectored = true) → back .mtvec = V ∧ back .stvec = V) ∧
    (¬ (V % 4 = 0 ∨ (V % 4 = 1 ∧ s.cfg.vectored = true)) →
      back .mtvec = V / 4 * 4 + s.mtvec.toNat % 4 ∧ back .stvec = V / 4 * 4 + s.stvec.toNat % 4) ∧
    (s.cfg.xlen = .rv64 → V / 2 ^ 60 ≠ 0 → V / 2 ^ 60 ≠ 8 → s.csrWrite .satp v = s) ∧
    (s.cfg.xlen = .rv64 → s.cfg.asidBits ≤ 16 → V / 2 ^ 60 = 0 ∨ V / 2 ^ 60 = 8 →
      back .satp = V / 2 ^ 60 * 2 ^ 60 + asid 44 % 2 ^ 16 * 2 ^ 44 + V % 2 ^ 44) ∧
    (s.cfg.xlen = .rv32 → s.cfg.asidBits ≤ 9 →
      back .satp = V / 2 ^ 31 * 2 ^ 31 + asid 22 % 2 ^ 9 * 2 ^ 22 + V % 2 ^ 22) ∧
    -- the interrupt registers, bit by bit
    (s.cfg.modes.hasS = true →
      (∀ k, ((after .sie).csrRead .sie).getLsbD k = if k ∈ [1, 5, 9] ∧ s.mideleg.getLsbD k = true then v.getLsbD k
        else (s.csrRead .sie).getLsbD k) ∧
      (∀ k, ((after .sie).csrRead .mie).getLsbD k = if k ∈ [1, 5, 9] ∧ s.mideleg.getLsbD k = true then v.getLsbD k
        else (s.csrRead .mie).getLsbD k) ∧
      (∀ k, (s.csrRead .sie).getLsbD k = ((s.csrRead .mie).getLsbD k && s.mideleg.getLsbD k)) ∧
      (∀ k, (s.csrRead .sip).getLsbD k = ((s.csrRead .mip).getLsbD k && s.mideleg.getLsbD k)) ∧
      (∀ k, ((after .mip).csrRead .mip).getLsbD k = if k = 1 ∨ k = 5 then v.getLsbD k
        else if k = 9 then v.getLsbD 9 || s.seipLine else (s.csrRead .mip).getLsbD k) ∧
      (let put (k : Nat) (old : Bool) : Bool :=
         if s.mideleg.getLsbD k = true ∧ (k = 1 ∨ s.priv = .m) then v.getLsbD k else old
       after .sip = { s with ssip := put 1 s.ssip, stip := put 5 s.stip, seip := put 9 s.seip })) ∧
    -- the PMP registers
    (∀ i : Fin 16,
      (let locked (j : Nat) : Prop := (s.pmpCfgAt j).toNat / 128 = 1
       if locked i.val ∨ (i.val + 1 < s.cfg.pmpEntries ∧ locked (i.val + 1)) then after (.pmpaddr i) = s
       else back (.pmpaddr i) = v.toNat % 2 ^ (if s.cfg.xlen = .rv32 then 32 else 54) ∧
         after (.pmpaddr i) = { s with pmpaddr := (after (.pmpaddr i)).pmpaddr } ∧
         ∀ j, j ≠ i → (after (.pmpaddr i)).pmpaddr.get j = s.pmpaddr.get j)) ∧
    -- that the byte of an entry not implemented reads 0 and ignores writes: log 7
    (∀ k : Fin 4,
      let count : Nat := if s.cfg.xlen = .rv32 then 4 else 8
      let t := after (.pmpcfg k)
      t = { s with pmpcfg := t.pmpcfg } ∧
      (∀ j, j < 16 →
        let old := (s.pmpCfgAt j).toNat
        let new := v.toNat / 2 ^ (8 * (j - 4 * k.val)) % 256
        (t.pmpCfgAt j).toNat =
          if 4 * k.val ≤ j ∧ j < 4 * k.val + count ∧ j < s.cfg.pmpEntries ∧ old / 128 = 0 then
            new / 128 * 128 + (if new / 16 % 2 = 1 then old / 8 % 4 else new / 8 % 4) * 8 + new % 8
          else old) ∧
      (∀ j, j < count → (s.csrRead (.pmpcfg k)).toNat / 256 ^ j % 256 =
        if 4 * k.val + j < s.cfg.pmpEntries then (s.pmpCfgAt (4 * k.val + j)).toNat else 0)) ∧
    -- the counters
    (s.csrRead .cycle).toNat = s.cycle.toNat % 2 ^ s.width ∧ (s.csrRead .time).toNat = s.mtime.toNat % 2 ^ s.width ∧
    (s.csrRead .instret).toNat = s.instret.toNat % 2 ^ s.width ∧
    (s.cfg.xlen = .rv32 → (s.csrRead .cycleh).toNat = s.cycle.toNat / 2 ^ 32 ∧
      (s.csrRead .timeh).toNat = s.mtime.toNat / 2 ^ 32 ∧ (s.csrRead .instreth).toNat = s.instret.toNat / 2 ^ 32)

/-- 10_state.md rules R46 to R48, R59: `mstatus` after a write, and `sstatus` as a view of it. -/
def Obligations.StatusRegisters : Prop :=
  ∀ (s : State) (v : Word),
    let t := s.csrWrite .mstatus v
    let u := s.csrWrite .sstatus v
    let legal : Prop :=
      (v.toNat / 2 ^ 11 % 4 = 3) ∨ (v.toNat / 2 ^ 11 % 4 = 1 ∧ s.cfg.modes.hasS = true) ∨
      (v.toNat / 2 ^ 11 % 4 = 0 ∧ s.cfg.modes.hasU = true)
    let view (w : State) : Prop :=
      (s.cfg.modes.hasS = true →
        (w.csrRead .sstatus).getLsbD 1 = v.getLsbD 1 ∧ (w.csrRead .sstatus).getLsbD 5 = v.getLsbD 5 ∧
        (w.csrRead .sstatus).getLsbD 8 = v.getLsbD 8 ∧ (w.csrRead .sstatus).getLsbD 18 = v.getLsbD 18 ∧
        (w.csrRead .sstatus).getLsbD 19 = v.getLsbD 19) ∧
      (∀ k ∈ [1, 5, 8, 18, 19], (w.csrRead .sstatus).getLsbD k = (w.csrRead .mstatus).getLsbD k)
    view t ∧ view u ∧
    (t.csrRead .mstatus).getLsbD 3 = v.getLsbD 3 ∧ (t.csrRead .mstatus).getLsbD 7 = v.getLsbD 7 ∧
    (legal → s.cfg.modes.hasU = true → (t.csrRead .mstatus).toNat / 2 ^ 11 % 4 = v.toNat / 2 ^ 11 % 4) ∧
    (¬ legal → t.mppField = s.mppField) ∧
    u = { s with mstatus := u.mstatus } ∧ t = { s with mstatus := t.mstatus } ∧
    u.mstatus.mie = s.mstatus.mie ∧ u.mstatus.mpie = s.mstatus.mpie ∧ u.mstatus.mpp = s.mstatus.mpp

/-- 60_exceptions.md rules R703, R706, R720, R730, R731: before an instruction, the pending enabled interrupt of the
lowest rank that the mode lets through is taken; the saved pc is that of the instruction that would have run. That the
rank is the fixed order of the codes, wherever each interrupt goes, is the model's choice, log 25. -/
def Obligations.InterruptTaken : Prop :=
  ∀ (s : State) (i : Intr), s.waiting = false → s.Takes i → (∀ j, s.Takes j → i.rank ≤ j.rank) →
    ∃ t : State, step s = .next t.tick ∧ Trapped s t true i.code s.upc 0

/-! ## Floating point -/

/-- 44_fd.md rules R403 to R405, R414 to R432: the arithmetic instructions give the operation of their format in the
selected mode, boxed, with its flags; a reserved mode is illegal. -/
def Obligations.FloatArithmetic : Prop :=
  ∀ (s : State) (rd rs1 rs2 rs3 : Reg) (rm : BitVec 3),
    let rounds (i : Instr) (put : Nat → Word) (op : Rm → FRes) : Prop :=
      (∀ r, s.modeOf rm = some r → GivesF i s 4 rd (put (op r).1) (op r).2) ∧ (s.modeOf rm = none → IsIllegal i s)
    (let a := s.single rs1
     let b := s.single rs2
     let c := s.single rs3
     rounds (.faddS rd rs1 rs2 rm) s.boxed (fun r => fmtS.add r a b) ∧
     rounds (.fsubS rd rs1 rs2 rm) s.boxed (fun r => fmtS.sub r a b) ∧
     rounds (.fmulS rd rs1 rs2 rm) s.boxed (fun r => fmtS.mul r a b) ∧
     rounds (.fdivS rd rs1 rs2 rm) s.boxed (fun r => fmtS.div r a b) ∧
     rounds (.fsqrtS rd rs1 rm) s.boxed (fun r => fmtS.sqrt r a) ∧
     rounds (.fmaddS rd rs1 rs2 rs3 rm) s.boxed (fun r => fmtS.fmadd r a b c) ∧
     rounds (.fmsubS rd rs1 rs2 rs3 rm) s.boxed (fun r => fmtS.fmsub r a b c) ∧
     rounds (.fnmsubS rd rs1 rs2 rs3 rm) s.boxed (fun r => fmtS.fnmsub r a b c) ∧
     rounds (.fnmaddS rd rs1 rs2 rs3 rm) s.boxed (fun r => fmtS.fnmadd r a b c)) ∧
    (s.cfg.ext.d = true →
     let a := s.double rs1
     let b := s.double rs2
     let c := s.double rs3
     let put (n : Nat) : Word := BitVec.ofNat 64 n
     rounds (.faddD rd rs1 rs2 rm) put (fun r => fmtD.add r a b) ∧
     rounds (.fsubD rd rs1 rs2 rm) put (fun r => fmtD.sub r a b) ∧
     rounds (.fmulD rd rs1 rs2 rm) put (fun r => fmtD.mul r a b) ∧
     rounds (.fdivD rd rs1 rs2 rm) put (fun r => fmtD.div r a b) ∧
     rounds (.fsqrtD rd rs1 rm) put (fun r => fmtD.sqrt r a) ∧
     rounds (.fmaddD rd rs1 rs2 rs3 rm) put (fun r => fmtD.fmadd r a b c) ∧
     rounds (.fmsubD rd rs1 rs2 rs3 rm) put (fun r => fmtD.fmsub r a b c) ∧
     rounds (.fnmsubD rd rs1 rs2 rs3 rm) put (fun r => fmtD.fnmsub r a b c) ∧
     rounds (.fnmaddD rd rs1 rs2 rs3 rm) put (fun r => fmtD.fnmadd r a b c))

/-- 44_fd.md rules R433 to R450: sign injection on the bits, the minimum, the maximum and the comparisons of the
format. -/
def Obligations.FloatSignMinCompare : Prop :=
  ∀ (s : State) (rd rs1 rs2 : Reg),
    (let a := s.single rs1
     let b := s.single rs2
     let top := 2 ^ 31
     GivesF (.fsgnjS rd rs1 rs2) s 4 rd (s.boxed (b / top * top + a % top)) 0 ∧
     GivesF (.fsgnjnS rd rs1 rs2) s 4 rd (s.boxed ((1 - b / top) * top + a % top)) 0 ∧
     GivesF (.fsgnjxS rd rs1 rs2) s 4 rd (s.boxed ((a / top + b / top) % 2 * top + a % top)) 0 ∧
     GivesF (.fminS rd rs1 rs2) s 4 rd (s.boxed (fmtS.min a b).1) (fmtS.min a b).2 ∧
     GivesF (.fmaxS rd rs1 rs2) s 4 rd (s.boxed (fmtS.max a b).1) (fmtS.max a b).2 ∧
     GivesXFlags (.feqS rd rs1 rs2) s rd (if (fmtS.eq a b).1 then 1 else 0) (fmtS.eq a b).2 ∧
     GivesXFlags (.fltS rd rs1 rs2) s rd (if (fmtS.lt a b).1 then 1 else 0) (fmtS.lt a b).2 ∧
     GivesXFlags (.fleS rd rs1 rs2) s rd (if (fmtS.le a b).1 then 1 else 0) (fmtS.le a b).2) ∧
    (s.cfg.ext.d = true →
     let a := s.double rs1
     let b := s.double rs2
     let top := 2 ^ 63
     let put (n : Nat) : Word := BitVec.ofNat 64 n
     GivesF (.fsgnjD rd rs1 rs2) s 4 rd (put (b / top * top + a % top)) 0 ∧
     GivesF (.fsgnjnD rd rs1 rs2) s 4 rd (put ((1 - b / top) * top + a % top)) 0 ∧
     GivesF (.fsgnjxD rd rs1 rs2) s 4 rd (put ((a / top + b / top) % 2 * top + a % top)) 0 ∧
     GivesF (.fminD rd rs1 rs2) s 4 rd (put (fmtD.min a b).1) (fmtD.min a b).2 ∧
     GivesF (.fmaxD rd rs1 rs2) s 4 rd (put (fmtD.max a b).1) (fmtD.max a b).2 ∧
     GivesXFlags (.feqD rd rs1 rs2) s rd (if (fmtD.eq a b).1 then 1 else 0) (fmtD.eq a b).2 ∧
     GivesXFlags (.fltD rd rs1 rs2) s rd (if (fmtD.lt a b).1 then 1 else 0) (fmtD.lt a b).2 ∧
     GivesXFlags (.fleD rd rs1 rs2) s rd (if (fmtD.le a b).1 then 1 else 0) (fmtD.le a b).2)

/-- 44_fd_convert.md rules R455, R456: the one bit of the class, from the sign, the exponent and the fraction. -/
def Obligations.FloatClassify : Prop :=
  ∀ (s : State) (rd rs1 : Reg),
    let classOf (neg : Bool) (ex top frac half : Nat) : Nat :=
      if ex = top then
        if frac = 0 then (if neg then 2 ^ 0 else 2 ^ 7) else if frac < half then 2 ^ 8 else 2 ^ 9
      else if ex = 0 then
        if frac = 0 then (if neg then 2 ^ 3 else 2 ^ 4) else (if neg then 2 ^ 2 else 2 ^ 5)
      else (if neg then 2 ^ 1 else 2 ^ 6)
    (let a := s.single rs1
     GivesX (.fclassS rd rs1) s 4 rd
       (classOf (decide (a / 2 ^ 31 = 1)) (a / 2 ^ 23 % 2 ^ 8) (2 ^ 8 - 1) (a % 2 ^ 23) (2 ^ 22))) ∧
    (s.cfg.ext.d = true →
     let a := s.double rs1
     GivesX (.fclassD rd rs1) s 4 rd
       (classOf (decide (a / 2 ^ 63 = 1)) (a / 2 ^ 52 % 2 ^ 11) (2 ^ 11 - 1) (a % 2 ^ 52) (2 ^ 51)))

/-- 44_fd_convert.md rules R458 to R469, R473 to R480: the conversions between the formats and the integers, with the
range of each destination. -/
def Obligations.FloatConversions : Prop :=
  ∀ (s : State) (rd rs1 : Reg) (rm : BitVec 3),
    let toX (i : Instr) (f : FFmt) (lo hi : Int) (a : Nat) (reg : Int → Nat) : Prop :=
      (∀ r, s.modeOf rm = some r → GivesXFlags i s rd (reg (f.toInt r lo hi a).1) (f.toInt r lo hi a).2) ∧
      (s.modeOf rm = none → IsIllegal i s)
    let toF (i : Instr) (put : Nat → Word) (op : Rm → FRes) : Prop :=
      (∀ r, s.modeOf rm = some r → GivesF i s 4 rd (put (op r).1) (op r).2) ∧ (s.modeOf rm = none → IsIllegal i s)
    let word (v : Int) : Nat := s.ofW (wrap 32 v)
    let long (v : Int) : Nat := wrap s.width v
    let put (n : Nat) : Word := BitVec.ofNat 64 n
    (let a := s.single rs1
     toX (.fcvtWS rd rs1 rm) fmtS (-2 ^ 31) (2 ^ 31 - 1) a word ∧
     toX (.fcvtWuS rd rs1 rm) fmtS 0 (2 ^ 32 - 1) a word ∧
     toX (.fcvtLS rd rs1 rm) fmtS (-2 ^ 63) (2 ^ 63 - 1) a long ∧
     toX (.fcvtLuS rd rs1 rm) fmtS 0 (2 ^ 64 - 1) a long ∧
     toF (.fcvtSW rd rs1 rm) s.boxed (fun r => fmtS.ofInt r (s.iw rs1)) ∧
     toF (.fcvtSWu rd rs1 rm) s.boxed (fun r => fmtS.ofInt r (s.uw rs1)) ∧
     toF (.fcvtSL rd rs1 rm) s.boxed (fun r => fmtS.ofInt r (signed 64 (s.ux rs1))) ∧
     toF (.fcvtSLu rd rs1 rm) s.boxed (fun r => fmtS.ofInt r (s.ux rs1))) ∧
    (s.cfg.ext.d = true →
     let a := s.double rs1
     toX (.fcvtWD rd rs1 rm) fmtD (-2 ^ 31) (2 ^ 31 - 1) a word ∧
     toX (.fcvtWuD rd rs1 rm) fmtD 0 (2 ^ 32 - 1) a word ∧
     toX (.fcvtLD rd rs1 rm) fmtD (-2 ^ 63) (2 ^ 63 - 1) a long ∧
     toX (.fcvtLuD rd rs1 rm) fmtD 0 (2 ^ 64 - 1) a long ∧
     toF (.fcvtDW rd rs1 rm) put (fun r => fmtD.ofInt r (s.iw rs1)) ∧
     toF (.fcvtDWu rd rs1 rm) put (fun r => fmtD.ofInt r (s.uw rs1)) ∧
     toF (.fcvtDL rd rs1 rm) put (fun r => fmtD.ofInt r (signed 64 (s.ux rs1))) ∧
     toF (.fcvtDLu rd rs1 rm) put (fun r => fmtD.ofInt r (s.ux rs1)) ∧
     toF (.fcvtSD rd rs1 rm) s.boxed (fun r => fmtD.convert fmtS r a) ∧
     toF (.fcvtDS rd rs1 rm) put (fun r => fmtS.convert fmtD r (s.single rs1)))

/-- 44_fd_convert.md rules R470, R471, R481, R482: moves copy bits. -/
def Obligations.FloatMoves : Prop :=
  ∀ (s : State) (rd rs1 : Reg),
    GivesX (.fmvXW rd rs1) s 4 rd (s.ofW ((s.getF rs1).toNat % 2 ^ 32)) ∧
    GivesF (.fmvWX rd rs1) s 4 rd (s.boxed (s.uw rs1)) 0 ∧
    GivesX (.fmvXD rd rs1) s 4 rd ((s.getF rs1).toNat % 2 ^ s.width) ∧
    (s.cfg.ext.d = true → GivesF (.fmvDX rd rs1) s 4 rd (BitVec.ofNat 64 (s.ux rs1)) 0)

/-- 44_fd.md rules R401, R402, R424: on finite operands, a sum, a difference, a product and a fused multiply-add whose
exact value is the non-zero `± m × 2^e` is that value rounded once; a quotient and a square root that are not zero are
the exact one rounded (`Rounds`); where the exact value is zero, the sign of the zero. -/
def Obligations.ExactThenRounded : Prop :=
  ∀ f ∈ floatFormats, ∀ (rm : Rm) (a b c m : Nat) (x y z : ℚ) (neg : Bool) (e : Int), m ≠ 0 →
    f.value a = some x → f.value b = some y → f.value c = some z →
    (x + y = ratOf neg m e → f.add rm a b = f.round rm neg m e) ∧
    (x - y = ratOf neg m e → f.sub rm a b = f.round rm neg m e) ∧
    (x * y = ratOf neg m e → f.mul rm a b = f.round rm neg m e) ∧
    (x * y + z = ratOf neg m e → f.fmadd rm a b c = f.round rm neg m e) ∧
    (x * y - z = ratOf neg m e → f.fmsub rm a b c = f.round rm neg m e) ∧
    (-(x * y) + z = ratOf neg m e → f.fnmsub rm a b c = f.round rm neg m e) ∧
    (-(x * y) - z = ratOf neg m e → f.fnmadd rm a b c = f.round rm neg m e) ∧
    (x ≠ 0 → y ≠ 0 → f.Rounds rm ((x / y : ℚ) : ℝ) (f.div rm a b)) ∧
    (0 < x → f.Rounds rm (√(x : ℝ)) (f.sqrt rm a)) ∧
    (let sa := f.isNeg a
     let sb := f.isNeg b
     let sc := f.isNeg c
     let zero (n : Bool) : FRes := (f.sign n 0, 0)
     let zeroSum (n k : Bool) : FRes := zero (if n = k then n else rm == .rdn)
     (x + y = 0 → f.add rm a b = zeroSum sa sb) ∧ (x - y = 0 → f.sub rm a b = zeroSum sa (!sb)) ∧
     (x * y = 0 → f.mul rm a b = zero (sa ^^ sb)) ∧ (x = 0 → y ≠ 0 → f.div rm a b = zero (sa ^^ sb)) ∧
     (x = 0 → f.sqrt rm a = zero sa) ∧
     (x * y + z = 0 → f.fmadd rm a b c = zeroSum (sa ^^ sb) sc) ∧
     (x * y - z = 0 → f.fmsub rm a b c = zeroSum (sa ^^ sb) (!sc)) ∧
     (-(x * y) + z = 0 → f.fnmsub rm a b c = zeroSum (!(sa ^^ sb)) sc) ∧
     (-(x * y) - z = 0 → f.fnmadd rm a b c = zeroSum (!(sa ^^ sb)) (!sc)))

/-- 10_state.md rule R33, 44_fd.md rules R401, R402: rounding toward zero, down and up is the rounding of the exact number
(`Rounds`), with its overflow and its flags. Toward zero gives the largest magnitude of the format that is not above the
exact one, and NX exactly when it is not the exact one; the sign is kept. -/
def Obligations.DirectedRounding : Prop :=
  ∀ f ∈ floatFormats, ∀ (neg : Bool) (m : Nat) (e : Int), m ≠ 0 →
    (∀ rm ∈ [Rm.rtz, .rdn, .rup], f.Rounds rm ((ratOf neg m e : ℚ) : ℝ) (f.round rm neg m e)) ∧
    ∃ k v, f.round .rtz neg m e = (f.sign neg k, (f.round .rtz neg m e).2) ∧ k < f.infBits ∧ f.value k = some v ∧
      v ≤ ratOf false m e ∧
      (∀ j w, j < f.infBits → f.value j = some w → w ≤ ratOf false m e → w ≤ v) ∧
      ((f.round .rtz neg m e).2.getLsbD 0 = true ↔ v ≠ ratOf false m e)

/-- 10_state.md rule R33, 44_fd.md rules R401, R402: rounding to nearest is the rounding of the exact number (`Rounds`),
with its ties, its overflow and its flags. When it does not overflow, it gives a number of the format that no other is
nearer to; of two equally near ones, `rne` gives the one whose last bit is 0 and `rmm` the larger magnitude. -/
def Obligations.RoundToNearest : Prop :=
  ∀ f ∈ floatFormats, ∀ (rm : Rm) (neg : Bool) (m : Nat) (e : Int), m ≠ 0 → rm = .rne ∨ rm = .rmm →
    f.Rounds rm ((ratOf neg m e : ℚ) : ℝ) (f.round rm neg m e) ∧
    ((f.round rm neg m e).2.getLsbD 2 = false →
      ∃ k v, (f.round rm neg m e).1 = f.sign neg k ∧ k < f.infBits ∧ f.value k = some v ∧
        (∀ j w, j < f.infBits → f.value j = some w → |v - ratOf false m e| ≤ |w - ratOf false m e|) ∧
        (∀ j w, j < f.infBits → f.value j = some w → j ≠ k → |v - ratOf false m e| = |w - ratOf false m e| →
          (rm = .rne → k % 2 = 0) ∧ (rm = .rmm → j < k)))

/-- 44_fd.md rules R401, R402 items 1, 2, 4 and 6: NaN operands, the invalid operations, and infinite operands. -/
def Obligations.FloatSpecialOperands : Prop :=
  ∀ f ∈ floatFormats, ∀ (rm : Rm) (a b c : Nat) (n k : Bool),
    let invalid : FRes := (f.qnan, 0b10000#5)
    let nan (quiet : Bool) : FRes := (f.qnan, if quiet then 0 else 0b10000#5)
    let inf (neg : Bool) : FRes := (f.sign neg f.infBits, 0)
    let finite (a : Nat) : Prop := f.mag a < f.infBits
    (f.isNan a = true ∨ f.isNan b = true →
      f.add rm a b = nan (!(f.isSnan a || f.isSnan b)) ∧ f.sub rm a b = nan (!(f.isSnan a || f.isSnan b)) ∧
      f.mul rm a b = nan (!(f.isSnan a || f.isSnan b)) ∧ f.div rm a b = nan (!(f.isSnan a || f.isSnan b))) ∧
    (f.isNan a = true → f.sqrt rm a = nan (!f.isSnan a)) ∧
    f.add rm (f.sign n f.infBits) (f.sign (!n) f.infBits) = invalid ∧
    f.sub rm (f.sign n f.infBits) (f.sign n f.infBits) = invalid ∧
    f.mul rm (f.sign n 0) (f.sign k f.infBits) = invalid ∧ f.mul rm (f.sign n f.infBits) (f.sign k 0) = invalid ∧
    f.div rm (f.sign n 0) (f.sign k 0) = invalid ∧ f.div rm (f.sign n f.infBits) (f.sign k f.infBits) = invalid ∧
    (f.mag a ≠ 0 → f.mag a < f.infBits →
      f.div rm a (f.sign k 0) = (f.sign (f.isNeg a ^^ k) f.infBits, 0b01000#5)) ∧
    (f.mag a ≠ 0 → f.mag a ≤ f.infBits → f.isNeg a = true → f.sqrt rm a = invalid) ∧
    (f.isNan c = true → f.fmadd rm (f.sign n 0) (f.sign k f.infBits) c = invalid) ∧
    -- infinite operands
    f.add rm (f.sign n f.infBits) (f.sign n f.infBits) = inf n ∧
    f.sub rm (f.sign n f.infBits) (f.sign (!n) f.infBits) = inf n ∧
    f.mul rm (f.sign n f.infBits) (f.sign k f.infBits) = inf (n ^^ k) ∧ f.sqrt rm f.infBits = inf false ∧
    (finite a →
      f.add rm (f.sign n f.infBits) a = inf n ∧ f.add rm a (f.sign n f.infBits) = inf n ∧
      f.sub rm (f.sign n f.infBits) a = inf n ∧ f.sub rm a (f.sign n f.infBits) = inf (!n) ∧
      f.div rm (f.sign n f.infBits) a = inf (n ^^ f.isNeg a) ∧
      f.div rm a (f.sign n f.infBits) = (f.sign (f.isNeg a ^^ n) 0, 0) ∧
      (f.mag a ≠ 0 →
        f.mul rm (f.sign n f.infBits) a = inf (n ^^ f.isNeg a) ∧ f.mul rm a (f.sign n f.infBits) = inf (f.isNeg a ^^ n))) ∧
    -- the fused multiply-adds: the signs that each turns are of the product and of the addend
    (let isInf (a : Nat) : Prop := f.mag a = f.infBits
     let fused (r : FRes) (turnProduct turnAddend : Bool) : Prop :=
       let zeroInf : Prop := (f.mag a = 0 ∧ isInf b) ∨ (isInf a ∧ f.mag b = 0)
       let product := (f.isNeg a ^^ f.isNeg b) ^^ turnProduct
       let addend := f.isNeg c ^^ turnAddend
       (zeroInf → r = invalid) ∧
       (¬ zeroInf → f.isNan a = true ∨ f.isNan b = true ∨ f.isNan c = true →
         r = nan (!(f.isSnan a || f.isSnan b || f.isSnan c))) ∧
       (¬ zeroInf → f.isNan a = false → f.isNan b = false → f.isNan c = false → isInf a ∨ isInf b →
         r = if isInf c ∧ addend ≠ product then invalid else inf product) ∧
       (finite a → finite b → isInf c → r = inf addend)
     fused (f.fmadd rm a b c) false false ∧ fused (f.fmsub rm a b c) false true ∧
     fused (f.fnmsub rm a b c) true false ∧ fused (f.fnmadd rm a b c) true true)

/-- 44_fd.md rules R439, R444: comparisons of numbers and infinities are those of what they stand for, a NaN compares
false, and the minimum and the maximum follow. -/
def Obligations.FloatOrder : Prop :=
  ∀ f ∈ floatFormats, ∀ (a b : Nat),
    (∀ x y : EReal, f.StandsFor a x → f.StandsFor b y →
      ((f.lt a b).1 = true ↔ x < y) ∧ ((f.le a b).1 = true ↔ x ≤ y) ∧ ((f.eq a b).1 = true ↔ x = y) ∧
      (f.lt a b).2 = 0 ∧ (f.le a b).2 = 0 ∧ (f.eq a b).2 = 0 ∧
      (x < y → f.min a b = (a, 0) ∧ f.max a b = (b, 0) ∧ f.min b a = (a, 0) ∧ f.max b a = (b, 0)) ∧
      f.min a a = (a, 0) ∧ f.max a a = (a, 0)) ∧
    (f.isNan a = false → ∃ x : EReal, f.StandsFor a x) ∧
    f.StandsFor f.infBits ⊤ ∧ f.StandsFor (f.sign true f.infBits) ⊥ ∧
    (∀ x : ℚ, f.value a = some x → f.StandsFor a ((x : ℝ) : EReal)) ∧
    (f.isNan a = true ∨ f.isNan b = true →
      f.lt a b = (false, 0b10000#5) ∧ f.le a b = (false, 0b10000#5) ∧
      f.eq a b = (false, if f.isSnan a || f.isSnan b then 0b10000#5 else 0)) ∧
    (let nv : BitVec 5 := if f.isSnan a || f.isSnan b then 0b10000#5 else 0
     (f.isNan a = true → f.isNan b = false →
       f.min a b = (b, nv) ∧ f.max a b = (b, nv) ∧ f.min b a = (b, nv) ∧ f.max b a = (b, nv)) ∧
     (f.isNan a = true → f.isNan b = true → f.min a b = (f.qnan, nv) ∧ f.max a b = (f.qnan, nv))) ∧
    f.min f.signBit 0 = (f.signBit, 0) ∧ f.min 0 f.signBit = (f.signBit, 0) ∧
    f.max f.signBit 0 = (0, 0) ∧ f.max 0 f.signBit = (0, 0)

/-- 44_fd_convert.md rules R458, R459, R468, R469, 44_fd.md rule R402: a conversion to an integer rounds in its mode (toward
zero it truncates), saturates outside the range with NV and without NX, and sets NX when it is inexact; a NaN gives the
largest value. One from an integer, and one between formats, is the rounding of the exact number (`Rounds`); zeros,
infinities and NaNs go to those of the other format. -/
def Obligations.ConversionsRound : Prop :=
  ∀ f ∈ floatFormats, ∀ (a : Nat) (lo hi : Int), lo ≤ 0 → 0 ≤ hi →
    (∀ rm,
      (f.isNan a = true → f.toInt rm lo hi a = (hi, 0b10000#5)) ∧
      f.toInt rm lo hi f.infBits = (hi, 0b10000#5) ∧ f.toInt rm lo hi (f.sign true f.infBits) = (lo, 0b10000#5) ∧
      (∀ x, f.value a = some x → ∃ z : Int, rm.PicksInt x z ∧
        f.toInt rm lo hi a =
          (if z < lo then (lo, 0b10000#5) else if hi < z then (hi, 0b10000#5)
           else (z, if (z : ℚ) = x then 0 else 0b00001#5)))) ∧
    (∀ x, f.value a = some x →
      let z : Int := if x < 0 then ⌈x⌉ else ⌊x⌋
      f.toInt .rtz lo hi a =
        (if z < lo then (lo, 0b10000#5) else if hi < z then (hi, 0b10000#5)
         else (z, if (z : ℚ) = x then 0 else 0b00001#5))) ∧
    (∀ rm (v : Int), f.ofInt rm 0 = (0, 0) ∧ (v ≠ 0 → f.Rounds rm (v : ℝ) (f.ofInt rm v))) ∧
    (∀ g ∈ floatFormats, ∀ rm,
      (f.isNan a = true → f.convert g rm a = (g.qnan, if f.isSnan a then 0b10000#5 else 0)) ∧
      (f.mag a = f.infBits → f.convert g rm a = (g.sign (f.isNeg a) g.infBits, 0)) ∧
      (∀ x, f.value a = some x →
        if x = 0 then f.convert g rm a = (g.sign (f.isNeg a) 0, 0) else g.Rounds rm ((x : ℚ) : ℝ) (f.convert g rm a)))

/-! ## Vectors -/

/-- 10_state.md rules R64 to R66, 46_v.md rule R576: the spec's one configuration, on a hart that supports its type or
not. That a vector instruction is 4 bytes long, that `vl` keeps its value, and that `mvl` is
`VBYTES / 16` also where the hart does not support F64, is the model's choice, log 16. -/
def Obligations.VectorConfigure : Prop :=
  ∀ (s : State) (rs1 : Reg), s.cfg.ext.v = true → s.cfg.ext.d = true → s.ux rs1 = 2 * 2 ^ 25 →
    ∃ t, execV (.vsetdcfg rs1) s = .next t ∧ t.pc.toNat = s.fromPc 4 ∧
      (∀ r : Reg, t.etype r = if r.toNat < 2 ∧ 0b01111#5 ∈ s.cfg.vtypes then some (.float fmtD) else none) ∧ (∀ p, t.pOn p = false) ∧
      t.mvl = s.cfg.vbytes / 16 ∧ (∀ r, t.ux r = s.ux r) ∧ (∀ a, t.mem.read a = s.mem.read a) ∧ t.vl = s.vl

/-- 46_v.md rule R575: the smaller of the source, unsigned, and `mvl`. Its length of 4 bytes is the model's choice,
log 16. -/
def Obligations.VectorSetLength : Prop :=
  ∀ (s : State) (rd rs1 : Reg), s.cfg.ext.v = true →
    ∃ t, execV (.setvl rd rs1) s = .next t ∧ t.vl = min (s.ux rs1) s.mvl ∧
      (∀ q, t.ux q = if q ≠ 0 ∧ q = rd then min (s.ux rs1) s.mvl else s.ux q) ∧ t.pc.toNat = s.fromPc 4 ∧
      t = { s with vl := t.vl, x := t.x, pc := t.pc, instret := s.instret + 1 }

/-- 46_v.md rules R574, R1032: the sum of signed elements, modulo the width, in the active elements below `vl`;
nothing else changes. Its length of 4 bytes is the model's choice, log 16. -/
def Obligations.VectorAdd : Prop :=
  ∀ (s : State) (vd vs1 vs2 : Reg) (m : VMask) (w : Nat), s.cfg.ext.v = true → s.maskOk m = true →
    s.etype vd = some (.signed w) → s.etype vs1 = some (.signed w) → s.etype vs2 = some (.signed w) →
    ∃ t, execV (.vadd vd (.vv vs1 vs2) m) s = .next t ∧
      (∀ r i, (t.elem r i).toNat =
        if r = vd ∧ i < s.vl ∧ s.maskBit m i = true then ((s.elem vs1 i).toNat + (s.elem vs2 i).toNat) % 2 ^ w
        else (s.elem r i).toNat) ∧
      t.pc.toNat = s.fromPc 4 ∧ t = { s with vregs := t.vregs, pc := t.pc, instret := s.instret + 1 }

/-! ## What every step keeps -/

/-- 20_memory.md rule R100: the memory's canonical form, which is the model's (log 4). -/
def Obligations.StepKeepsMemoryForm : Prop :=
  ∀ s t : State, s.mem.wf = true → step s = .next t → t.mem.wf = true

/-- 10_state.md rules R28, R48: the mode and MPP stay modes that the hart implements. -/
def Obligations.StepKeepsMode : Prop :=
  ∀ s t : State, s.ModeLegal → step s = .next t → t.ModeLegal

/-- 10_state.md rules R25, R26: `pc` stays an XLEN-bit multiple of the instruction alignment. -/
def Obligations.StepKeepsPcAligned : Prop :=
  ∀ s t : State, s.PcLegal → step s = .next t → t.PcLegal

/-- 10_state.md rules R49, R55, R57, R61: the fields that take legal values only keep legal ones. -/
def Obligations.StepKeepsCsrFields : Prop :=
  ∀ s t : State, s.CsrLegal → step s = .next t → t.CsrLegal

/-- 43_a.md rules R362, R365: a reservation stays one of a naturally aligned word or doubleword. -/
def Obligations.StepKeepsReservation : Prop :=
  ∀ s t : State, s.ReservationLegal → step s = .next t → t.ReservationLegal

/-- 60_exceptions.md rule R760: without an input a step counts one cycle and at most one instruction; no step changes
the implementation's parameters. That every step counts one cycle is the spec's default; log 21 says what is a step.
-/
def Obligations.StepCounts : Prop :=
  ∀ s t : State, step s = .next t →
    t.cfg = s.cfg ∧
    (s.inputs = [] → t.cycle = s.cycle + 1 ∧ t.inputs = []) ∧ (t.instret = s.instret ∨ t.instret = s.instret + 1)

/-- 10_state.md rules R28, R42: a step that starts and ends in user mode changes no privileged register. -/
def Obligations.UserModeIsConfined : Prop :=
  ∀ s t : State, s.priv = .u → step s = .next t → t.priv = .u → t.privileged = s.privileged

/-- 20_memory.md rules R120, R125 to R127: below machine mode, a step changes no byte that physical memory protection
forbids writing; page-table updates are no exception. -/
def Obligations.PmpGuardsMemory : Prop :=
  ∀ (s t : State) (b : Nat), s.priv ≠ .m → s.inputs = [] → s.pmpOk b 1 .store .u = false → step s = .next t →
    t.mem.read b = s.mem.read b

/-- 20_memory.md rule R124: a locked PMP entry and both its address registers, its own and the one below, stay as they
are. -/
def Obligations.LockedPmpStays : Prop :=
  ∀ (s t : State) (i : Fin 16), (s.pmpCfgAt i.val).getLsbD 7 = true → step s = .next t →
    t.pmpCfgAt i.val = s.pmpCfgAt i.val ∧ t.pmpaddr.get i = s.pmpaddr.get i ∧
    (i.val < s.cfg.pmpEntries → ∀ k : Fin 16, k.val + 1 = i.val → t.pmpaddr.get k = s.pmpaddr.get k)
end

