-- ==== Sys2Proof/Laws/State.lean ====
section
/-!
SUPPORT. What each update of the state leaves, one lemma per field, so that no proof unfolds an update.
-/

namespace Sys2Proof.Machine

variable (s : State)

@[simp] theorem State.setX_cfg (r : Reg) (v : Word) : (s.setX r v).cfg = s.cfg := rfl
@[simp] theorem State.setX_pc (r : Reg) (v : Word) : (s.setX r v).pc = s.pc := rfl
@[simp] theorem State.setX_priv (r : Reg) (v : Word) : (s.setX r v).priv = s.priv := rfl
@[simp] theorem State.setX_f (r : Reg) (v : Word) : (s.setX r v).f = s.f := rfl
@[simp] theorem State.setX_fcsr (r : Reg) (v : Word) : (s.setX r v).fcsr = s.fcsr := rfl
@[simp] theorem State.setX_reservation (r : Reg) (v : Word) : (s.setX r v).reservation = s.reservation := rfl
@[simp] theorem State.setX_waiting (r : Reg) (v : Word) : (s.setX r v).waiting = s.waiting := rfl
@[simp] theorem State.setX_mstatus (r : Reg) (v : Word) : (s.setX r v).mstatus = s.mstatus := rfl
@[simp] theorem State.setX_mtvec (r : Reg) (v : Word) : (s.setX r v).mtvec = s.mtvec := rfl
@[simp] theorem State.setX_mepc (r : Reg) (v : Word) : (s.setX r v).mepc = s.mepc := rfl
@[simp] theorem State.setX_mcause (r : Reg) (v : Word) : (s.setX r v).mcause = s.mcause := rfl
@[simp] theorem State.setX_mtval (r : Reg) (v : Word) : (s.setX r v).mtval = s.mtval := rfl
@[simp] theorem State.setX_mscratch (r : Reg) (v : Word) : (s.setX r v).mscratch = s.mscratch := rfl
@[simp] theorem State.setX_mie (r : Reg) (v : Word) : (s.setX r v).mie = s.mie := rfl
@[simp] theorem State.setX_ssip (r : Reg) (v : Word) : (s.setX r v).ssip = s.ssip := rfl
@[simp] theorem State.setX_stip (r : Reg) (v : Word) : (s.setX r v).stip = s.stip := rfl
@[simp] theorem State.setX_seip (r : Reg) (v : Word) : (s.setX r v).seip = s.seip := rfl
@[simp] theorem State.setX_meipLine (r : Reg) (v : Word) : (s.setX r v).meipLine = s.meipLine := rfl
@[simp] theorem State.setX_seipLine (r : Reg) (v : Word) : (s.setX r v).seipLine = s.seipLine := rfl
@[simp] theorem State.setX_medeleg (r : Reg) (v : Word) : (s.setX r v).medeleg = s.medeleg := rfl
@[simp] theorem State.setX_mideleg (r : Reg) (v : Word) : (s.setX r v).mideleg = s.mideleg := rfl
@[simp] theorem State.setX_pmpcfg (r : Reg) (v : Word) : (s.setX r v).pmpcfg = s.pmpcfg := rfl
@[simp] theorem State.setX_pmpaddr (r : Reg) (v : Word) : (s.setX r v).pmpaddr = s.pmpaddr := rfl
@[simp] theorem State.setX_stvec (r : Reg) (v : Word) : (s.setX r v).stvec = s.stvec := rfl
@[simp] theorem State.setX_sepc (r : Reg) (v : Word) : (s.setX r v).sepc = s.sepc := rfl
@[simp] theorem State.setX_scause (r : Reg) (v : Word) : (s.setX r v).scause = s.scause := rfl
@[simp] theorem State.setX_sscratch (r : Reg) (v : Word) : (s.setX r v).sscratch = s.sscratch := rfl
@[simp] theorem State.setX_stval (r : Reg) (v : Word) : (s.setX r v).stval = s.stval := rfl
@[simp] theorem State.setX_satp (r : Reg) (v : Word) : (s.setX r v).satp = s.satp := rfl
@[simp] theorem State.setX_cycle (r : Reg) (v : Word) : (s.setX r v).cycle = s.cycle := rfl
@[simp] theorem State.setX_instret (r : Reg) (v : Word) : (s.setX r v).instret = s.instret := rfl
@[simp] theorem State.setX_mtime (r : Reg) (v : Word) : (s.setX r v).mtime = s.mtime := rfl
@[simp] theorem State.setX_mtimecmp (r : Reg) (v : Word) : (s.setX r v).mtimecmp = s.mtimecmp := rfl
@[simp] theorem State.setX_msip (r : Reg) (v : Word) : (s.setX r v).msip = s.msip := rfl
@[simp] theorem State.setX_vregs (r : Reg) (v : Word) : (s.setX r v).vregs = s.vregs := rfl
@[simp] theorem State.setX_vtype (r : Reg) (v : Word) : (s.setX r v).vtype = s.vtype := rfl
@[simp] theorem State.setX_vp (r : Reg) (v : Word) : (s.setX r v).vp = s.vp := rfl
@[simp] theorem State.setX_vpOn (r : Reg) (v : Word) : (s.setX r v).vpOn = s.vpOn := rfl
@[simp] theorem State.setX_vfill (r : Reg) (v : Word) : (s.setX r v).vfill = s.vfill := rfl
@[simp] theorem State.setX_vl (r : Reg) (v : Word) : (s.setX r v).vl = s.vl := rfl
@[simp] theorem State.setX_vcfgd (r : Reg) (v : Word) : (s.setX r v).vcfgd = s.vcfgd := rfl
@[simp] theorem State.setX_tlb (r : Reg) (v : Word) : (s.setX r v).tlb = s.tlb := rfl
@[simp] theorem State.setX_staleFetch (r : Reg) (v : Word) : (s.setX r v).staleFetch = s.staleFetch := rfl
@[simp] theorem State.setX_mem (r : Reg) (v : Word) : (s.setX r v).mem = s.mem := rfl
@[simp] theorem State.setX_inputs (r : Reg) (v : Word) : (s.setX r v).inputs = s.inputs := rfl
@[simp] theorem State.setX_free (r : Reg) (v : Word) : (s.setX r v).free = s.free := rfl

@[simp] theorem State.setF_cfg (r : Reg) (v : Word) : (s.setF r v).cfg = s.cfg := rfl
@[simp] theorem State.setF_x (r : Reg) (v : Word) : (s.setF r v).x = s.x := rfl
@[simp] theorem State.setF_pc (r : Reg) (v : Word) : (s.setF r v).pc = s.pc := rfl
@[simp] theorem State.setF_priv (r : Reg) (v : Word) : (s.setF r v).priv = s.priv := rfl
@[simp] theorem State.setF_fcsr (r : Reg) (v : Word) : (s.setF r v).fcsr = s.fcsr := rfl
@[simp] theorem State.setF_reservation (r : Reg) (v : Word) : (s.setF r v).reservation = s.reservation := rfl
@[simp] theorem State.setF_waiting (r : Reg) (v : Word) : (s.setF r v).waiting = s.waiting := rfl
@[simp] theorem State.setF_mstatus (r : Reg) (v : Word) : (s.setF r v).mstatus = s.mstatus := rfl
@[simp] theorem State.setF_mtvec (r : Reg) (v : Word) : (s.setF r v).mtvec = s.mtvec := rfl
@[simp] theorem State.setF_mepc (r : Reg) (v : Word) : (s.setF r v).mepc = s.mepc := rfl
@[simp] theorem State.setF_mcause (r : Reg) (v : Word) : (s.setF r v).mcause = s.mcause := rfl
@[simp] theorem State.setF_mtval (r : Reg) (v : Word) : (s.setF r v).mtval = s.mtval := rfl
@[simp] theorem State.setF_mscratch (r : Reg) (v : Word) : (s.setF r v).mscratch = s.mscratch := rfl
@[simp] theorem State.setF_mie (r : Reg) (v : Word) : (s.setF r v).mie = s.mie := rfl
@[simp] theorem State.setF_ssip (r : Reg) (v : Word) : (s.setF r v).ssip = s.ssip := rfl
@[simp] theorem State.setF_stip (r : Reg) (v : Word) : (s.setF r v).stip = s.stip := rfl
@[simp] theorem State.setF_seip (r : Reg) (v : Word) : (s.setF r v).seip = s.seip := rfl
@[simp] theorem State.setF_meipLine (r : Reg) (v : Word) : (s.setF r v).meipLine = s.meipLine := rfl
@[simp] theorem State.setF_seipLine (r : Reg) (v : Word) : (s.setF r v).seipLine = s.seipLine := rfl
@[simp] theorem State.setF_medeleg (r : Reg) (v : Word) : (s.setF r v).medeleg = s.medeleg := rfl
@[simp] theorem State.setF_mideleg (r : Reg) (v : Word) : (s.setF r v).mideleg = s.mideleg := rfl
@[simp] theorem State.setF_pmpcfg (r : Reg) (v : Word) : (s.setF r v).pmpcfg = s.pmpcfg := rfl
@[simp] theorem State.setF_pmpaddr (r : Reg) (v : Word) : (s.setF r v).pmpaddr = s.pmpaddr := rfl
@[simp] theorem State.setF_stvec (r : Reg) (v : Word) : (s.setF r v).stvec = s.stvec := rfl
@[simp] theorem State.setF_sepc (r : Reg) (v : Word) : (s.setF r v).sepc = s.sepc := rfl
@[simp] theorem State.setF_scause (r : Reg) (v : Word) : (s.setF r v).scause = s.scause := rfl
@[simp] theorem State.setF_sscratch (r : Reg) (v : Word) : (s.setF r v).sscratch = s.sscratch := rfl
@[simp] theorem State.setF_stval (r : Reg) (v : Word) : (s.setF r v).stval = s.stval := rfl
@[simp] theorem State.setF_satp (r : Reg) (v : Word) : (s.setF r v).satp = s.satp := rfl
@[simp] theorem State.setF_cycle (r : Reg) (v : Word) : (s.setF r v).cycle = s.cycle := rfl
@[simp] theorem State.setF_instret (r : Reg) (v : Word) : (s.setF r v).instret = s.instret := rfl
@[simp] theorem State.setF_mtime (r : Reg) (v : Word) : (s.setF r v).mtime = s.mtime := rfl
@[simp] theorem State.setF_mtimecmp (r : Reg) (v : Word) : (s.setF r v).mtimecmp = s.mtimecmp := rfl
@[simp] theorem State.setF_msip (r : Reg) (v : Word) : (s.setF r v).msip = s.msip := rfl
@[simp] theorem State.setF_vregs (r : Reg) (v : Word) : (s.setF r v).vregs = s.vregs := rfl
@[simp] theorem State.setF_vtype (r : Reg) (v : Word) : (s.setF r v).vtype = s.vtype := rfl
@[simp] theorem State.setF_vp (r : Reg) (v : Word) : (s.setF r v).vp = s.vp := rfl
@[simp] theorem State.setF_vpOn (r : Reg) (v : Word) : (s.setF r v).vpOn = s.vpOn := rfl
@[simp] theorem State.setF_vfill (r : Reg) (v : Word) : (s.setF r v).vfill = s.vfill := rfl
@[simp] theorem State.setF_vl (r : Reg) (v : Word) : (s.setF r v).vl = s.vl := rfl
@[simp] theorem State.setF_vcfgd (r : Reg) (v : Word) : (s.setF r v).vcfgd = s.vcfgd := rfl
@[simp] theorem State.setF_tlb (r : Reg) (v : Word) : (s.setF r v).tlb = s.tlb := rfl
@[simp] theorem State.setF_staleFetch (r : Reg) (v : Word) : (s.setF r v).staleFetch = s.staleFetch := rfl
@[simp] theorem State.setF_mem (r : Reg) (v : Word) : (s.setF r v).mem = s.mem := rfl
@[simp] theorem State.setF_inputs (r : Reg) (v : Word) : (s.setF r v).inputs = s.inputs := rfl
@[simp] theorem State.setF_free (r : Reg) (v : Word) : (s.setF r v).free = s.free := rfl

@[simp] theorem State.retire_cfg (len : Word) : (s.retire len).cfg = s.cfg := rfl
@[simp] theorem State.retire_x (len : Word) : (s.retire len).x = s.x := rfl
@[simp] theorem State.retire_priv (len : Word) : (s.retire len).priv = s.priv := rfl
@[simp] theorem State.retire_f (len : Word) : (s.retire len).f = s.f := rfl
@[simp] theorem State.retire_fcsr (len : Word) : (s.retire len).fcsr = s.fcsr := rfl
@[simp] theorem State.retire_reservation (len : Word) : (s.retire len).reservation = s.reservation := rfl
@[simp] theorem State.retire_waiting (len : Word) : (s.retire len).waiting = s.waiting := rfl
@[simp] theorem State.retire_mstatus (len : Word) : (s.retire len).mstatus = s.mstatus := rfl
@[simp] theorem State.retire_mtvec (len : Word) : (s.retire len).mtvec = s.mtvec := rfl
@[simp] theorem State.retire_mepc (len : Word) : (s.retire len).mepc = s.mepc := rfl
@[simp] theorem State.retire_mcause (len : Word) : (s.retire len).mcause = s.mcause := rfl
@[simp] theorem State.retire_mtval (len : Word) : (s.retire len).mtval = s.mtval := rfl
@[simp] theorem State.retire_mscratch (len : Word) : (s.retire len).mscratch = s.mscratch := rfl
@[simp] theorem State.retire_mie (len : Word) : (s.retire len).mie = s.mie := rfl
@[simp] theorem State.retire_ssip (len : Word) : (s.retire len).ssip = s.ssip := rfl
@[simp] theorem State.retire_stip (len : Word) : (s.retire len).stip = s.stip := rfl
@[simp] theorem State.retire_seip (len : Word) : (s.retire len).seip = s.seip := rfl
@[simp] theorem State.retire_meipLine (len : Word) : (s.retire len).meipLine = s.meipLine := rfl
@[simp] theorem State.retire_seipLine (len : Word) : (s.retire len).seipLine = s.seipLine := rfl
@[simp] theorem State.retire_medeleg (len : Word) : (s.retire len).medeleg = s.medeleg := rfl
@[simp] theorem State.retire_mideleg (len : Word) : (s.retire len).mideleg = s.mideleg := rfl
@[simp] theorem State.retire_pmpcfg (len : Word) : (s.retire len).pmpcfg = s.pmpcfg := rfl
@[simp] theorem State.retire_pmpaddr (len : Word) : (s.retire len).pmpaddr = s.pmpaddr := rfl
@[simp] theorem State.retire_stvec (len : Word) : (s.retire len).stvec = s.stvec := rfl
@[simp] theorem State.retire_sepc (len : Word) : (s.retire len).sepc = s.sepc := rfl
@[simp] theorem State.retire_scause (len : Word) : (s.retire len).scause = s.scause := rfl
@[simp] theorem State.retire_sscratch (len : Word) : (s.retire len).sscratch = s.sscratch := rfl
@[simp] theorem State.retire_stval (len : Word) : (s.retire len).stval = s.stval := rfl
@[simp] theorem State.retire_satp (len : Word) : (s.retire len).satp = s.satp := rfl
@[simp] theorem State.retire_cycle (len : Word) : (s.retire len).cycle = s.cycle := rfl
@[simp] theorem State.retire_mtime (len : Word) : (s.retire len).mtime = s.mtime := rfl
@[simp] theorem State.retire_mtimecmp (len : Word) : (s.retire len).mtimecmp = s.mtimecmp := rfl
@[simp] theorem State.retire_msip (len : Word) : (s.retire len).msip = s.msip := rfl
@[simp] theorem State.retire_vregs (len : Word) : (s.retire len).vregs = s.vregs := rfl
@[simp] theorem State.retire_vtype (len : Word) : (s.retire len).vtype = s.vtype := rfl
@[simp] theorem State.retire_vp (len : Word) : (s.retire len).vp = s.vp := rfl
@[simp] theorem State.retire_vpOn (len : Word) : (s.retire len).vpOn = s.vpOn := rfl
@[simp] theorem State.retire_vfill (len : Word) : (s.retire len).vfill = s.vfill := rfl
@[simp] theorem State.retire_vl (len : Word) : (s.retire len).vl = s.vl := rfl
@[simp] theorem State.retire_vcfgd (len : Word) : (s.retire len).vcfgd = s.vcfgd := rfl
@[simp] theorem State.retire_tlb (len : Word) : (s.retire len).tlb = s.tlb := rfl
@[simp] theorem State.retire_staleFetch (len : Word) : (s.retire len).staleFetch = s.staleFetch := rfl
@[simp] theorem State.retire_mem (len : Word) : (s.retire len).mem = s.mem := rfl
@[simp] theorem State.retire_inputs (len : Word) : (s.retire len).inputs = s.inputs := rfl
@[simp] theorem State.retire_free (len : Word) : (s.retire len).free = s.free := rfl

@[simp] theorem State.retireAt_cfg (target : Word) : (s.retireAt target).cfg = s.cfg := rfl
@[simp] theorem State.retireAt_x (target : Word) : (s.retireAt target).x = s.x := rfl
@[simp] theorem State.retireAt_priv (target : Word) : (s.retireAt target).priv = s.priv := rfl
@[simp] theorem State.retireAt_f (target : Word) : (s.retireAt target).f = s.f := rfl
@[simp] theorem State.retireAt_fcsr (target : Word) : (s.retireAt target).fcsr = s.fcsr := rfl
@[simp] theorem State.retireAt_reservation (target : Word) : (s.retireAt target).reservation = s.reservation := rfl
@[simp] theorem State.retireAt_waiting (target : Word) : (s.retireAt target).waiting = s.waiting := rfl
@[simp] theorem State.retireAt_mstatus (target : Word) : (s.retireAt target).mstatus = s.mstatus := rfl
@[simp] theorem State.retireAt_mtvec (target : Word) : (s.retireAt target).mtvec = s.mtvec := rfl
@[simp] theorem State.retireAt_mepc (target : Word) : (s.retireAt target).mepc = s.mepc := rfl
@[simp] theorem State.retireAt_mcause (target : Word) : (s.retireAt target).mcause = s.mcause := rfl
@[simp] theorem State.retireAt_mtval (target : Word) : (s.retireAt target).mtval = s.mtval := rfl
@[simp] theorem State.retireAt_mscratch (target : Word) : (s.retireAt target).mscratch = s.mscratch := rfl
@[simp] theorem State.retireAt_mie (target : Word) : (s.retireAt target).mie = s.mie := rfl
@[simp] theorem State.retireAt_ssip (target : Word) : (s.retireAt target).ssip = s.ssip := rfl
@[simp] theorem State.retireAt_stip (target : Word) : (s.retireAt target).stip = s.stip := rfl
@[simp] theorem State.retireAt_seip (target : Word) : (s.retireAt target).seip = s.seip := rfl
@[simp] theorem State.retireAt_meipLine (target : Word) : (s.retireAt target).meipLine = s.meipLine := rfl
@[simp] theorem State.retireAt_seipLine (target : Word) : (s.retireAt target).seipLine = s.seipLine := rfl
@[simp] theorem State.retireAt_medeleg (target : Word) : (s.retireAt target).medeleg = s.medeleg := rfl
@[simp] theorem State.retireAt_mideleg (target : Word) : (s.retireAt target).mideleg = s.mideleg := rfl
@[simp] theorem State.retireAt_pmpcfg (target : Word) : (s.retireAt target).pmpcfg = s.pmpcfg := rfl
@[simp] theorem State.retireAt_pmpaddr (target : Word) : (s.retireAt target).pmpaddr = s.pmpaddr := rfl
@[simp] theorem State.retireAt_stvec (target : Word) : (s.retireAt target).stvec = s.stvec := rfl
@[simp] theorem State.retireAt_sepc (target : Word) : (s.retireAt target).sepc = s.sepc := rfl
@[simp] theorem State.retireAt_scause (target : Word) : (s.retireAt target).scause = s.scause := rfl
@[simp] theorem State.retireAt_sscratch (target : Word) : (s.retireAt target).sscratch = s.sscratch := rfl
@[simp] theorem State.retireAt_stval (target : Word) : (s.retireAt target).stval = s.stval := rfl
@[simp] theorem State.retireAt_satp (target : Word) : (s.retireAt target).satp = s.satp := rfl
@[simp] theorem State.retireAt_cycle (target : Word) : (s.retireAt target).cycle = s.cycle := rfl
@[simp] theorem State.retireAt_mtime (target : Word) : (s.retireAt target).mtime = s.mtime := rfl
@[simp] theorem State.retireAt_mtimecmp (target : Word) : (s.retireAt target).mtimecmp = s.mtimecmp := rfl
@[simp] theorem State.retireAt_msip (target : Word) : (s.retireAt target).msip = s.msip := rfl
@[simp] theorem State.retireAt_vregs (target : Word) : (s.retireAt target).vregs = s.vregs := rfl
@[simp] theorem State.retireAt_vtype (target : Word) : (s.retireAt target).vtype = s.vtype := rfl
@[simp] theorem State.retireAt_vp (target : Word) : (s.retireAt target).vp = s.vp := rfl
@[simp] theorem State.retireAt_vpOn (target : Word) : (s.retireAt target).vpOn = s.vpOn := rfl
@[simp] theorem State.retireAt_vfill (target : Word) : (s.retireAt target).vfill = s.vfill := rfl
@[simp] theorem State.retireAt_vl (target : Word) : (s.retireAt target).vl = s.vl := rfl
@[simp] theorem State.retireAt_vcfgd (target : Word) : (s.retireAt target).vcfgd = s.vcfgd := rfl
@[simp] theorem State.retireAt_tlb (target : Word) : (s.retireAt target).tlb = s.tlb := rfl
@[simp] theorem State.retireAt_staleFetch (target : Word) : (s.retireAt target).staleFetch = s.staleFetch := rfl
@[simp] theorem State.retireAt_mem (target : Word) : (s.retireAt target).mem = s.mem := rfl
@[simp] theorem State.retireAt_inputs (target : Word) : (s.retireAt target).inputs = s.inputs := rfl
@[simp] theorem State.retireAt_free (target : Word) : (s.retireAt target).free = s.free := rfl

@[simp] theorem State.accrue_cfg (fl : BitVec 5) : (s.accrue fl).cfg = s.cfg := rfl
@[simp] theorem State.accrue_x (fl : BitVec 5) : (s.accrue fl).x = s.x := rfl
@[simp] theorem State.accrue_pc (fl : BitVec 5) : (s.accrue fl).pc = s.pc := rfl
@[simp] theorem State.accrue_priv (fl : BitVec 5) : (s.accrue fl).priv = s.priv := rfl
@[simp] theorem State.accrue_f (fl : BitVec 5) : (s.accrue fl).f = s.f := rfl
@[simp] theorem State.accrue_reservation (fl : BitVec 5) : (s.accrue fl).reservation = s.reservation := rfl
@[simp] theorem State.accrue_waiting (fl : BitVec 5) : (s.accrue fl).waiting = s.waiting := rfl
@[simp] theorem State.accrue_mstatus (fl : BitVec 5) : (s.accrue fl).mstatus = s.mstatus := rfl
@[simp] theorem State.accrue_mtvec (fl : BitVec 5) : (s.accrue fl).mtvec = s.mtvec := rfl
@[simp] theorem State.accrue_mepc (fl : BitVec 5) : (s.accrue fl).mepc = s.mepc := rfl
@[simp] theorem State.accrue_mcause (fl : BitVec 5) : (s.accrue fl).mcause = s.mcause := rfl
@[simp] theorem State.accrue_mtval (fl : BitVec 5) : (s.accrue fl).mtval = s.mtval := rfl
@[simp] theorem State.accrue_mscratch (fl : BitVec 5) : (s.accrue fl).mscratch = s.mscratch := rfl
@[simp] theorem State.accrue_mie (fl : BitVec 5) : (s.accrue fl).mie = s.mie := rfl
@[simp] theorem State.accrue_ssip (fl : BitVec 5) : (s.accrue fl).ssip = s.ssip := rfl
@[simp] theorem State.accrue_stip (fl : BitVec 5) : (s.accrue fl).stip = s.stip := rfl
@[simp] theorem State.accrue_seip (fl : BitVec 5) : (s.accrue fl).seip = s.seip := rfl
@[simp] theorem State.accrue_meipLine (fl : BitVec 5) : (s.accrue fl).meipLine = s.meipLine := rfl
@[simp] theorem State.accrue_seipLine (fl : BitVec 5) : (s.accrue fl).seipLine = s.seipLine := rfl
@[simp] theorem State.accrue_medeleg (fl : BitVec 5) : (s.accrue fl).medeleg = s.medeleg := rfl
@[simp] theorem State.accrue_mideleg (fl : BitVec 5) : (s.accrue fl).mideleg = s.mideleg := rfl
@[simp] theorem State.accrue_pmpcfg (fl : BitVec 5) : (s.accrue fl).pmpcfg = s.pmpcfg := rfl
@[simp] theorem State.accrue_pmpaddr (fl : BitVec 5) : (s.accrue fl).pmpaddr = s.pmpaddr := rfl
@[simp] theorem State.accrue_stvec (fl : BitVec 5) : (s.accrue fl).stvec = s.stvec := rfl
@[simp] theorem State.accrue_sepc (fl : BitVec 5) : (s.accrue fl).sepc = s.sepc := rfl
@[simp] theorem State.accrue_scause (fl : BitVec 5) : (s.accrue fl).scause = s.scause := rfl
@[simp] theorem State.accrue_sscratch (fl : BitVec 5) : (s.accrue fl).sscratch = s.sscratch := rfl
@[simp] theorem State.accrue_stval (fl : BitVec 5) : (s.accrue fl).stval = s.stval := rfl
@[simp] theorem State.accrue_satp (fl : BitVec 5) : (s.accrue fl).satp = s.satp := rfl
@[simp] theorem State.accrue_cycle (fl : BitVec 5) : (s.accrue fl).cycle = s.cycle := rfl
@[simp] theorem State.accrue_instret (fl : BitVec 5) : (s.accrue fl).instret = s.instret := rfl
@[simp] theorem State.accrue_mtime (fl : BitVec 5) : (s.accrue fl).mtime = s.mtime := rfl
@[simp] theorem State.accrue_mtimecmp (fl : BitVec 5) : (s.accrue fl).mtimecmp = s.mtimecmp := rfl
@[simp] theorem State.accrue_msip (fl : BitVec 5) : (s.accrue fl).msip = s.msip := rfl
@[simp] theorem State.accrue_vregs (fl : BitVec 5) : (s.accrue fl).vregs = s.vregs := rfl
@[simp] theorem State.accrue_vtype (fl : BitVec 5) : (s.accrue fl).vtype = s.vtype := rfl
@[simp] theorem State.accrue_vp (fl : BitVec 5) : (s.accrue fl).vp = s.vp := rfl
@[simp] theorem State.accrue_vpOn (fl : BitVec 5) : (s.accrue fl).vpOn = s.vpOn := rfl
@[simp] theorem State.accrue_vfill (fl : BitVec 5) : (s.accrue fl).vfill = s.vfill := rfl
@[simp] theorem State.accrue_vl (fl : BitVec 5) : (s.accrue fl).vl = s.vl := rfl
@[simp] theorem State.accrue_vcfgd (fl : BitVec 5) : (s.accrue fl).vcfgd = s.vcfgd := rfl
@[simp] theorem State.accrue_tlb (fl : BitVec 5) : (s.accrue fl).tlb = s.tlb := rfl
@[simp] theorem State.accrue_staleFetch (fl : BitVec 5) : (s.accrue fl).staleFetch = s.staleFetch := rfl
@[simp] theorem State.accrue_mem (fl : BitVec 5) : (s.accrue fl).mem = s.mem := rfl
@[simp] theorem State.accrue_inputs (fl : BitVec 5) : (s.accrue fl).inputs = s.inputs := rfl
@[simp] theorem State.accrue_free (fl : BitVec 5) : (s.accrue fl).free = s.free := rfl

@[simp] theorem State.storeBytes_cfg (as : List Nat) (v : Nat) : (s.storeBytes as v).cfg = s.cfg := rfl
@[simp] theorem State.storeBytes_x (as : List Nat) (v : Nat) : (s.storeBytes as v).x = s.x := rfl
@[simp] theorem State.storeBytes_pc (as : List Nat) (v : Nat) : (s.storeBytes as v).pc = s.pc := rfl
@[simp] theorem State.storeBytes_priv (as : List Nat) (v : Nat) : (s.storeBytes as v).priv = s.priv := rfl
@[simp] theorem State.storeBytes_f (as : List Nat) (v : Nat) : (s.storeBytes as v).f = s.f := rfl
@[simp] theorem State.storeBytes_fcsr (as : List Nat) (v : Nat) : (s.storeBytes as v).fcsr = s.fcsr := rfl
@[simp] theorem State.storeBytes_waiting (as : List Nat) (v : Nat) : (s.storeBytes as v).waiting = s.waiting := rfl
@[simp] theorem State.storeBytes_mstatus (as : List Nat) (v : Nat) : (s.storeBytes as v).mstatus = s.mstatus := rfl
@[simp] theorem State.storeBytes_mtvec (as : List Nat) (v : Nat) : (s.storeBytes as v).mtvec = s.mtvec := rfl
@[simp] theorem State.storeBytes_mepc (as : List Nat) (v : Nat) : (s.storeBytes as v).mepc = s.mepc := rfl
@[simp] theorem State.storeBytes_mcause (as : List Nat) (v : Nat) : (s.storeBytes as v).mcause = s.mcause := rfl
@[simp] theorem State.storeBytes_mtval (as : List Nat) (v : Nat) : (s.storeBytes as v).mtval = s.mtval := rfl
@[simp] theorem State.storeBytes_mscratch (as : List Nat) (v : Nat) : (s.storeBytes as v).mscratch = s.mscratch := rfl
@[simp] theorem State.storeBytes_mie (as : List Nat) (v : Nat) : (s.storeBytes as v).mie = s.mie := rfl
@[simp] theorem State.storeBytes_ssip (as : List Nat) (v : Nat) : (s.storeBytes as v).ssip = s.ssip := rfl
@[simp] theorem State.storeBytes_stip (as : List Nat) (v : Nat) : (s.storeBytes as v).stip = s.stip := rfl
@[simp] theorem State.storeBytes_seip (as : List Nat) (v : Nat) : (s.storeBytes as v).seip = s.seip := rfl
@[simp] theorem State.storeBytes_meipLine (as : List Nat) (v : Nat) : (s.storeBytes as v).meipLine = s.meipLine := rfl
@[simp] theorem State.storeBytes_seipLine (as : List Nat) (v : Nat) : (s.storeBytes as v).seipLine = s.seipLine := rfl
@[simp] theorem State.storeBytes_medeleg (as : List Nat) (v : Nat) : (s.storeBytes as v).medeleg = s.medeleg := rfl
@[simp] theorem State.storeBytes_mideleg (as : List Nat) (v : Nat) : (s.storeBytes as v).mideleg = s.mideleg := rfl
@[simp] theorem State.storeBytes_pmpcfg (as : List Nat) (v : Nat) : (s.storeBytes as v).pmpcfg = s.pmpcfg := rfl
@[simp] theorem State.storeBytes_pmpaddr (as : List Nat) (v : Nat) : (s.storeBytes as v).pmpaddr = s.pmpaddr := rfl
@[simp] theorem State.storeBytes_stvec (as : List Nat) (v : Nat) : (s.storeBytes as v).stvec = s.stvec := rfl
@[simp] theorem State.storeBytes_sepc (as : List Nat) (v : Nat) : (s.storeBytes as v).sepc = s.sepc := rfl
@[simp] theorem State.storeBytes_scause (as : List Nat) (v : Nat) : (s.storeBytes as v).scause = s.scause := rfl
@[simp] theorem State.storeBytes_sscratch (as : List Nat) (v : Nat) : (s.storeBytes as v).sscratch = s.sscratch := rfl
@[simp] theorem State.storeBytes_stval (as : List Nat) (v : Nat) : (s.storeBytes as v).stval = s.stval := rfl
@[simp] theorem State.storeBytes_satp (as : List Nat) (v : Nat) : (s.storeBytes as v).satp = s.satp := rfl
@[simp] theorem State.storeBytes_cycle (as : List Nat) (v : Nat) : (s.storeBytes as v).cycle = s.cycle := rfl
@[simp] theorem State.storeBytes_instret (as : List Nat) (v : Nat) : (s.storeBytes as v).instret = s.instret := rfl
@[simp] theorem State.storeBytes_mtime (as : List Nat) (v : Nat) : (s.storeBytes as v).mtime = s.mtime := rfl
@[simp] theorem State.storeBytes_mtimecmp (as : List Nat) (v : Nat) : (s.storeBytes as v).mtimecmp = s.mtimecmp := rfl
@[simp] theorem State.storeBytes_msip (as : List Nat) (v : Nat) : (s.storeBytes as v).msip = s.msip := rfl
@[simp] theorem State.storeBytes_vregs (as : List Nat) (v : Nat) : (s.storeBytes as v).vregs = s.vregs := rfl
@[simp] theorem State.storeBytes_vtype (as : List Nat) (v : Nat) : (s.storeBytes as v).vtype = s.vtype := rfl
@[simp] theorem State.storeBytes_vp (as : List Nat) (v : Nat) : (s.storeBytes as v).vp = s.vp := rfl
@[simp] theorem State.storeBytes_vpOn (as : List Nat) (v : Nat) : (s.storeBytes as v).vpOn = s.vpOn := rfl
@[simp] theorem State.storeBytes_vfill (as : List Nat) (v : Nat) : (s.storeBytes as v).vfill = s.vfill := rfl
@[simp] theorem State.storeBytes_vl (as : List Nat) (v : Nat) : (s.storeBytes as v).vl = s.vl := rfl
@[simp] theorem State.storeBytes_vcfgd (as : List Nat) (v : Nat) : (s.storeBytes as v).vcfgd = s.vcfgd := rfl
@[simp] theorem State.storeBytes_tlb (as : List Nat) (v : Nat) : (s.storeBytes as v).tlb = s.tlb := rfl
@[simp] theorem State.storeBytes_inputs (as : List Nat) (v : Nat) : (s.storeBytes as v).inputs = s.inputs := rfl
@[simp] theorem State.storeBytes_free (as : List Nat) (v : Nat) : (s.storeBytes as v).free = s.free := rfl

@[simp] theorem State.readDone_cfg (p : Place) (n : Nat) : (s.readDone p n).cfg = s.cfg := rfl
@[simp] theorem State.readDone_x (p : Place) (n : Nat) : (s.readDone p n).x = s.x := rfl
@[simp] theorem State.readDone_pc (p : Place) (n : Nat) : (s.readDone p n).pc = s.pc := rfl
@[simp] theorem State.readDone_priv (p : Place) (n : Nat) : (s.readDone p n).priv = s.priv := rfl
@[simp] theorem State.readDone_f (p : Place) (n : Nat) : (s.readDone p n).f = s.f := rfl
@[simp] theorem State.readDone_fcsr (p : Place) (n : Nat) : (s.readDone p n).fcsr = s.fcsr := rfl
@[simp] theorem State.readDone_waiting (p : Place) (n : Nat) : (s.readDone p n).waiting = s.waiting := rfl
@[simp] theorem State.readDone_mstatus (p : Place) (n : Nat) : (s.readDone p n).mstatus = s.mstatus := rfl
@[simp] theorem State.readDone_mtvec (p : Place) (n : Nat) : (s.readDone p n).mtvec = s.mtvec := rfl
@[simp] theorem State.readDone_mepc (p : Place) (n : Nat) : (s.readDone p n).mepc = s.mepc := rfl
@[simp] theorem State.readDone_mcause (p : Place) (n : Nat) : (s.readDone p n).mcause = s.mcause := rfl
@[simp] theorem State.readDone_mtval (p : Place) (n : Nat) : (s.readDone p n).mtval = s.mtval := rfl
@[simp] theorem State.readDone_mscratch (p : Place) (n : Nat) : (s.readDone p n).mscratch = s.mscratch := rfl
@[simp] theorem State.readDone_mie (p : Place) (n : Nat) : (s.readDone p n).mie = s.mie := rfl
@[simp] theorem State.readDone_ssip (p : Place) (n : Nat) : (s.readDone p n).ssip = s.ssip := rfl
@[simp] theorem State.readDone_stip (p : Place) (n : Nat) : (s.readDone p n).stip = s.stip := rfl
@[simp] theorem State.readDone_seip (p : Place) (n : Nat) : (s.readDone p n).seip = s.seip := rfl
@[simp] theorem State.readDone_meipLine (p : Place) (n : Nat) : (s.readDone p n).meipLine = s.meipLine := rfl
@[simp] theorem State.readDone_seipLine (p : Place) (n : Nat) : (s.readDone p n).seipLine = s.seipLine := rfl
@[simp] theorem State.readDone_medeleg (p : Place) (n : Nat) : (s.readDone p n).medeleg = s.medeleg := rfl
@[simp] theorem State.readDone_mideleg (p : Place) (n : Nat) : (s.readDone p n).mideleg = s.mideleg := rfl
@[simp] theorem State.readDone_pmpcfg (p : Place) (n : Nat) : (s.readDone p n).pmpcfg = s.pmpcfg := rfl
@[simp] theorem State.readDone_pmpaddr (p : Place) (n : Nat) : (s.readDone p n).pmpaddr = s.pmpaddr := rfl
@[simp] theorem State.readDone_stvec (p : Place) (n : Nat) : (s.readDone p n).stvec = s.stvec := rfl
@[simp] theorem State.readDone_sepc (p : Place) (n : Nat) : (s.readDone p n).sepc = s.sepc := rfl
@[simp] theorem State.readDone_scause (p : Place) (n : Nat) : (s.readDone p n).scause = s.scause := rfl
@[simp] theorem State.readDone_sscratch (p : Place) (n : Nat) : (s.readDone p n).sscratch = s.sscratch := rfl
@[simp] theorem State.readDone_stval (p : Place) (n : Nat) : (s.readDone p n).stval = s.stval := rfl
@[simp] theorem State.readDone_satp (p : Place) (n : Nat) : (s.readDone p n).satp = s.satp := rfl
@[simp] theorem State.readDone_cycle (p : Place) (n : Nat) : (s.readDone p n).cycle = s.cycle := rfl
@[simp] theorem State.readDone_instret (p : Place) (n : Nat) : (s.readDone p n).instret = s.instret := rfl
@[simp] theorem State.readDone_mtime (p : Place) (n : Nat) : (s.readDone p n).mtime = s.mtime := rfl
@[simp] theorem State.readDone_mtimecmp (p : Place) (n : Nat) : (s.readDone p n).mtimecmp = s.mtimecmp := rfl
@[simp] theorem State.readDone_msip (p : Place) (n : Nat) : (s.readDone p n).msip = s.msip := rfl
@[simp] theorem State.readDone_vregs (p : Place) (n : Nat) : (s.readDone p n).vregs = s.vregs := rfl
@[simp] theorem State.readDone_vtype (p : Place) (n : Nat) : (s.readDone p n).vtype = s.vtype := rfl
@[simp] theorem State.readDone_vp (p : Place) (n : Nat) : (s.readDone p n).vp = s.vp := rfl
@[simp] theorem State.readDone_vpOn (p : Place) (n : Nat) : (s.readDone p n).vpOn = s.vpOn := rfl
@[simp] theorem State.readDone_vfill (p : Place) (n : Nat) : (s.readDone p n).vfill = s.vfill := rfl
@[simp] theorem State.readDone_vl (p : Place) (n : Nat) : (s.readDone p n).vl = s.vl := rfl
@[simp] theorem State.readDone_vcfgd (p : Place) (n : Nat) : (s.readDone p n).vcfgd = s.vcfgd := rfl
@[simp] theorem State.readDone_tlb (p : Place) (n : Nat) : (s.readDone p n).tlb = s.tlb := rfl
@[simp] theorem State.readDone_inputs (p : Place) (n : Nat) : (s.readDone p n).inputs = s.inputs := rfl
@[simp] theorem State.readDone_staleFetch (p : Place) (n : Nat) : (s.readDone p n).staleFetch = s.staleFetch := rfl
@[simp] theorem State.readDone_mem (p : Place) (n : Nat) : (s.readDone p n).mem = s.mem := rfl
@[simp] theorem State.readDone_reservation (p : Place) (n : Nat) : (s.readDone p n).reservation = s.reservation := rfl

@[simp] theorem State.cacheLeaf_cfg (va pte : Word) (i : Nat) : (s.cacheLeaf va pte i).cfg = s.cfg := rfl
@[simp] theorem State.cacheLeaf_x (va pte : Word) (i : Nat) : (s.cacheLeaf va pte i).x = s.x := rfl
@[simp] theorem State.cacheLeaf_pc (va pte : Word) (i : Nat) : (s.cacheLeaf va pte i).pc = s.pc := rfl
@[simp] theorem State.cacheLeaf_priv (va pte : Word) (i : Nat) : (s.cacheLeaf va pte i).priv = s.priv := rfl
@[simp] theorem State.cacheLeaf_f (va pte : Word) (i : Nat) : (s.cacheLeaf va pte i).f = s.f := rfl
@[simp] theorem State.cacheLeaf_fcsr (va pte : Word) (i : Nat) : (s.cacheLeaf va pte i).fcsr = s.fcsr := rfl
@[simp] theorem State.cacheLeaf_reservation (va pte : Word) (i : Nat) : (s.cacheLeaf va pte i).reservation = s.reservation := rfl
@[simp] theorem State.cacheLeaf_waiting (va pte : Word) (i : Nat) : (s.cacheLeaf va pte i).waiting = s.waiting := rfl
@[simp] theorem State.cacheLeaf_mstatus (va pte : Word) (i : Nat) : (s.cacheLeaf va pte i).mstatus = s.mstatus := rfl
@[simp] theorem State.cacheLeaf_mtvec (va pte : Word) (i : Nat) : (s.cacheLeaf va pte i).mtvec = s.mtvec := rfl
@[simp] theorem State.cacheLeaf_mepc (va pte : Word) (i : Nat) : (s.cacheLeaf va pte i).mepc = s.mepc := rfl
@[simp] theorem State.cacheLeaf_mcause (va pte : Word) (i : Nat) : (s.cacheLeaf va pte i).mcause = s.mcause := rfl
@[simp] theorem State.cacheLeaf_mtval (va pte : Word) (i : Nat) : (s.cacheLeaf va pte i).mtval = s.mtval := rfl
@[simp] theorem State.cacheLeaf_mscratch (va pte : Word) (i : Nat) : (s.cacheLeaf va pte i).mscratch = s.mscratch := rfl
@[simp] theorem State.cacheLeaf_mie (va pte : Word) (i : Nat) : (s.cacheLeaf va pte i).mie = s.mie := rfl
@[simp] theorem State.cacheLeaf_ssip (va pte : Word) (i : Nat) : (s.cacheLeaf va pte i).ssip = s.ssip := rfl
@[simp] theorem State.cacheLeaf_stip (va pte : Word) (i : Nat) : (s.cacheLeaf va pte i).stip = s.stip := rfl
@[simp] theorem State.cacheLeaf_seip (va pte : Word) (i : Nat) : (s.cacheLeaf va pte i).seip = s.seip := rfl
@[simp] theorem State.cacheLeaf_meipLine (va pte : Word) (i : Nat) : (s.cacheLeaf va pte i).meipLine = s.meipLine := rfl
@[simp] theorem State.cacheLeaf_seipLine (va pte : Word) (i : Nat) : (s.cacheLeaf va pte i).seipLine = s.seipLine := rfl
@[simp] theorem State.cacheLeaf_medeleg (va pte : Word) (i : Nat) : (s.cacheLeaf va pte i).medeleg = s.medeleg := rfl
@[simp] theorem State.cacheLeaf_mideleg (va pte : Word) (i : Nat) : (s.cacheLeaf va pte i).mideleg = s.mideleg := rfl
@[simp] theorem State.cacheLeaf_pmpcfg (va pte : Word) (i : Nat) : (s.cacheLeaf va pte i).pmpcfg = s.pmpcfg := rfl
@[simp] theorem State.cacheLeaf_pmpaddr (va pte : Word) (i : Nat) : (s.cacheLeaf va pte i).pmpaddr = s.pmpaddr := rfl
@[simp] theorem State.cacheLeaf_stvec (va pte : Word) (i : Nat) : (s.cacheLeaf va pte i).stvec = s.stvec := rfl
@[simp] theorem State.cacheLeaf_sepc (va pte : Word) (i : Nat) : (s.cacheLeaf va pte i).sepc = s.sepc := rfl
@[simp] theorem State.cacheLeaf_scause (va pte : Word) (i : Nat) : (s.cacheLeaf va pte i).scause = s.scause := rfl
@[simp] theorem State.cacheLeaf_sscratch (va pte : Word) (i : Nat) : (s.cacheLeaf va pte i).sscratch = s.sscratch := rfl
@[simp] theorem State.cacheLeaf_stval (va pte : Word) (i : Nat) : (s.cacheLeaf va pte i).stval = s.stval := rfl
@[simp] theorem State.cacheLeaf_satp (va pte : Word) (i : Nat) : (s.cacheLeaf va pte i).satp = s.satp := rfl
@[simp] theorem State.cacheLeaf_cycle (va pte : Word) (i : Nat) : (s.cacheLeaf va pte i).cycle = s.cycle := rfl
@[simp] theorem State.cacheLeaf_instret (va pte : Word) (i : Nat) : (s.cacheLeaf va pte i).instret = s.instret := rfl
@[simp] theorem State.cacheLeaf_mtime (va pte : Word) (i : Nat) : (s.cacheLeaf va pte i).mtime = s.mtime := rfl
@[simp] theorem State.cacheLeaf_mtimecmp (va pte : Word) (i : Nat) : (s.cacheLeaf va pte i).mtimecmp = s.mtimecmp := rfl
@[simp] theorem State.cacheLeaf_msip (va pte : Word) (i : Nat) : (s.cacheLeaf va pte i).msip = s.msip := rfl
@[simp] theorem State.cacheLeaf_vregs (va pte : Word) (i : Nat) : (s.cacheLeaf va pte i).vregs = s.vregs := rfl
@[simp] theorem State.cacheLeaf_vtype (va pte : Word) (i : Nat) : (s.cacheLeaf va pte i).vtype = s.vtype := rfl
@[simp] theorem State.cacheLeaf_vp (va pte : Word) (i : Nat) : (s.cacheLeaf va pte i).vp = s.vp := rfl
@[simp] theorem State.cacheLeaf_vpOn (va pte : Word) (i : Nat) : (s.cacheLeaf va pte i).vpOn = s.vpOn := rfl
@[simp] theorem State.cacheLeaf_vfill (va pte : Word) (i : Nat) : (s.cacheLeaf va pte i).vfill = s.vfill := rfl
@[simp] theorem State.cacheLeaf_vl (va pte : Word) (i : Nat) : (s.cacheLeaf va pte i).vl = s.vl := rfl
@[simp] theorem State.cacheLeaf_vcfgd (va pte : Word) (i : Nat) : (s.cacheLeaf va pte i).vcfgd = s.vcfgd := rfl
@[simp] theorem State.cacheLeaf_staleFetch (va pte : Word) (i : Nat) : (s.cacheLeaf va pte i).staleFetch = s.staleFetch := rfl
@[simp] theorem State.cacheLeaf_mem (va pte : Word) (i : Nat) : (s.cacheLeaf va pte i).mem = s.mem := rfl
@[simp] theorem State.cacheLeaf_inputs (va pte : Word) (i : Nat) : (s.cacheLeaf va pte i).inputs = s.inputs := rfl
@[simp] theorem State.cacheLeaf_free (va pte : Word) (i : Nat) : (s.cacheLeaf va pte i).free = s.free := rfl

@[simp] theorem State.scDrawn_cfg : s.scDrawn.cfg = s.cfg := rfl
@[simp] theorem State.scDrawn_x : s.scDrawn.x = s.x := rfl
@[simp] theorem State.scDrawn_pc : s.scDrawn.pc = s.pc := rfl
@[simp] theorem State.scDrawn_priv : s.scDrawn.priv = s.priv := rfl
@[simp] theorem State.scDrawn_f : s.scDrawn.f = s.f := rfl
@[simp] theorem State.scDrawn_fcsr : s.scDrawn.fcsr = s.fcsr := rfl
@[simp] theorem State.scDrawn_reservation : s.scDrawn.reservation = s.reservation := rfl
@[simp] theorem State.scDrawn_waiting : s.scDrawn.waiting = s.waiting := rfl
@[simp] theorem State.scDrawn_mstatus : s.scDrawn.mstatus = s.mstatus := rfl
@[simp] theorem State.scDrawn_mtvec : s.scDrawn.mtvec = s.mtvec := rfl
@[simp] theorem State.scDrawn_mepc : s.scDrawn.mepc = s.mepc := rfl
@[simp] theorem State.scDrawn_mcause : s.scDrawn.mcause = s.mcause := rfl
@[simp] theorem State.scDrawn_mtval : s.scDrawn.mtval = s.mtval := rfl
@[simp] theorem State.scDrawn_mscratch : s.scDrawn.mscratch = s.mscratch := rfl
@[simp] theorem State.scDrawn_mie : s.scDrawn.mie = s.mie := rfl
@[simp] theorem State.scDrawn_ssip : s.scDrawn.ssip = s.ssip := rfl
@[simp] theorem State.scDrawn_stip : s.scDrawn.stip = s.stip := rfl
@[simp] theorem State.scDrawn_seip : s.scDrawn.seip = s.seip := rfl
@[simp] theorem State.scDrawn_meipLine : s.scDrawn.meipLine = s.meipLine := rfl
@[simp] theorem State.scDrawn_seipLine : s.scDrawn.seipLine = s.seipLine := rfl
@[simp] theorem State.scDrawn_medeleg : s.scDrawn.medeleg = s.medeleg := rfl
@[simp] theorem State.scDrawn_mideleg : s.scDrawn.mideleg = s.mideleg := rfl
@[simp] theorem State.scDrawn_pmpcfg : s.scDrawn.pmpcfg = s.pmpcfg := rfl
@[simp] theorem State.scDrawn_pmpaddr : s.scDrawn.pmpaddr = s.pmpaddr := rfl
@[simp] theorem State.scDrawn_stvec : s.scDrawn.stvec = s.stvec := rfl
@[simp] theorem State.scDrawn_sepc : s.scDrawn.sepc = s.sepc := rfl
@[simp] theorem State.scDrawn_scause : s.scDrawn.scause = s.scause := rfl
@[simp] theorem State.scDrawn_sscratch : s.scDrawn.sscratch = s.sscratch := rfl
@[simp] theorem State.scDrawn_stval : s.scDrawn.stval = s.stval := rfl
@[simp] theorem State.scDrawn_satp : s.scDrawn.satp = s.satp := rfl
@[simp] theorem State.scDrawn_cycle : s.scDrawn.cycle = s.cycle := rfl
@[simp] theorem State.scDrawn_instret : s.scDrawn.instret = s.instret := rfl
@[simp] theorem State.scDrawn_mtime : s.scDrawn.mtime = s.mtime := rfl
@[simp] theorem State.scDrawn_mtimecmp : s.scDrawn.mtimecmp = s.mtimecmp := rfl
@[simp] theorem State.scDrawn_msip : s.scDrawn.msip = s.msip := rfl
@[simp] theorem State.scDrawn_vregs : s.scDrawn.vregs = s.vregs := rfl
@[simp] theorem State.scDrawn_vtype : s.scDrawn.vtype = s.vtype := rfl
@[simp] theorem State.scDrawn_vp : s.scDrawn.vp = s.vp := rfl
@[simp] theorem State.scDrawn_vpOn : s.scDrawn.vpOn = s.vpOn := rfl
@[simp] theorem State.scDrawn_vfill : s.scDrawn.vfill = s.vfill := rfl
@[simp] theorem State.scDrawn_vl : s.scDrawn.vl = s.vl := rfl
@[simp] theorem State.scDrawn_vcfgd : s.scDrawn.vcfgd = s.vcfgd := rfl
@[simp] theorem State.scDrawn_tlb : s.scDrawn.tlb = s.tlb := rfl
@[simp] theorem State.scDrawn_staleFetch : s.scDrawn.staleFetch = s.staleFetch := rfl
@[simp] theorem State.scDrawn_mem : s.scDrawn.mem = s.mem := rfl
@[simp] theorem State.scDrawn_inputs : s.scDrawn.inputs = s.inputs := rfl

@[simp] theorem State.flushTlb_cfg (rs1 rs2 : Reg) : (s.flushTlb rs1 rs2).cfg = s.cfg := rfl
@[simp] theorem State.flushTlb_x (rs1 rs2 : Reg) : (s.flushTlb rs1 rs2).x = s.x := rfl
@[simp] theorem State.flushTlb_pc (rs1 rs2 : Reg) : (s.flushTlb rs1 rs2).pc = s.pc := rfl
@[simp] theorem State.flushTlb_priv (rs1 rs2 : Reg) : (s.flushTlb rs1 rs2).priv = s.priv := rfl
@[simp] theorem State.flushTlb_f (rs1 rs2 : Reg) : (s.flushTlb rs1 rs2).f = s.f := rfl
@[simp] theorem State.flushTlb_fcsr (rs1 rs2 : Reg) : (s.flushTlb rs1 rs2).fcsr = s.fcsr := rfl
@[simp] theorem State.flushTlb_reservation (rs1 rs2 : Reg) : (s.flushTlb rs1 rs2).reservation = s.reservation := rfl
@[simp] theorem State.flushTlb_waiting (rs1 rs2 : Reg) : (s.flushTlb rs1 rs2).waiting = s.waiting := rfl
@[simp] theorem State.flushTlb_mstatus (rs1 rs2 : Reg) : (s.flushTlb rs1 rs2).mstatus = s.mstatus := rfl
@[simp] theorem State.flushTlb_mtvec (rs1 rs2 : Reg) : (s.flushTlb rs1 rs2).mtvec = s.mtvec := rfl
@[simp] theorem State.flushTlb_mepc (rs1 rs2 : Reg) : (s.flushTlb rs1 rs2).mepc = s.mepc := rfl
@[simp] theorem State.flushTlb_mcause (rs1 rs2 : Reg) : (s.flushTlb rs1 rs2).mcause = s.mcause := rfl
@[simp] theorem State.flushTlb_mtval (rs1 rs2 : Reg) : (s.flushTlb rs1 rs2).mtval = s.mtval := rfl
@[simp] theorem State.flushTlb_mscratch (rs1 rs2 : Reg) : (s.flushTlb rs1 rs2).mscratch = s.mscratch := rfl
@[simp] theorem State.flushTlb_mie (rs1 rs2 : Reg) : (s.flushTlb rs1 rs2).mie = s.mie := rfl
@[simp] theorem State.flushTlb_ssip (rs1 rs2 : Reg) : (s.flushTlb rs1 rs2).ssip = s.ssip := rfl
@[simp] theorem State.flushTlb_stip (rs1 rs2 : Reg) : (s.flushTlb rs1 rs2).stip = s.stip := rfl
@[simp] theorem State.flushTlb_seip (rs1 rs2 : Reg) : (s.flushTlb rs1 rs2).seip = s.seip := rfl
@[simp] theorem State.flushTlb_meipLine (rs1 rs2 : Reg) : (s.flushTlb rs1 rs2).meipLine = s.meipLine := rfl
@[simp] theorem State.flushTlb_seipLine (rs1 rs2 : Reg) : (s.flushTlb rs1 rs2).seipLine = s.seipLine := rfl
@[simp] theorem State.flushTlb_medeleg (rs1 rs2 : Reg) : (s.flushTlb rs1 rs2).medeleg = s.medeleg := rfl
@[simp] theorem State.flushTlb_mideleg (rs1 rs2 : Reg) : (s.flushTlb rs1 rs2).mideleg = s.mideleg := rfl
@[simp] theorem State.flushTlb_pmpcfg (rs1 rs2 : Reg) : (s.flushTlb rs1 rs2).pmpcfg = s.pmpcfg := rfl
@[simp] theorem State.flushTlb_pmpaddr (rs1 rs2 : Reg) : (s.flushTlb rs1 rs2).pmpaddr = s.pmpaddr := rfl
@[simp] theorem State.flushTlb_stvec (rs1 rs2 : Reg) : (s.flushTlb rs1 rs2).stvec = s.stvec := rfl
@[simp] theorem State.flushTlb_sepc (rs1 rs2 : Reg) : (s.flushTlb rs1 rs2).sepc = s.sepc := rfl
@[simp] theorem State.flushTlb_scause (rs1 rs2 : Reg) : (s.flushTlb rs1 rs2).scause = s.scause := rfl
@[simp] theorem State.flushTlb_sscratch (rs1 rs2 : Reg) : (s.flushTlb rs1 rs2).sscratch = s.sscratch := rfl
@[simp] theorem State.flushTlb_stval (rs1 rs2 : Reg) : (s.flushTlb rs1 rs2).stval = s.stval := rfl
@[simp] theorem State.flushTlb_satp (rs1 rs2 : Reg) : (s.flushTlb rs1 rs2).satp = s.satp := rfl
@[simp] theorem State.flushTlb_cycle (rs1 rs2 : Reg) : (s.flushTlb rs1 rs2).cycle = s.cycle := rfl
@[simp] theorem State.flushTlb_instret (rs1 rs2 : Reg) : (s.flushTlb rs1 rs2).instret = s.instret := rfl
@[simp] theorem State.flushTlb_mtime (rs1 rs2 : Reg) : (s.flushTlb rs1 rs2).mtime = s.mtime := rfl
@[simp] theorem State.flushTlb_mtimecmp (rs1 rs2 : Reg) : (s.flushTlb rs1 rs2).mtimecmp = s.mtimecmp := rfl
@[simp] theorem State.flushTlb_msip (rs1 rs2 : Reg) : (s.flushTlb rs1 rs2).msip = s.msip := rfl
@[simp] theorem State.flushTlb_vregs (rs1 rs2 : Reg) : (s.flushTlb rs1 rs2).vregs = s.vregs := rfl
@[simp] theorem State.flushTlb_vtype (rs1 rs2 : Reg) : (s.flushTlb rs1 rs2).vtype = s.vtype := rfl
@[simp] theorem State.flushTlb_vp (rs1 rs2 : Reg) : (s.flushTlb rs1 rs2).vp = s.vp := rfl
@[simp] theorem State.flushTlb_vpOn (rs1 rs2 : Reg) : (s.flushTlb rs1 rs2).vpOn = s.vpOn := rfl
@[simp] theorem State.flushTlb_vfill (rs1 rs2 : Reg) : (s.flushTlb rs1 rs2).vfill = s.vfill := rfl
@[simp] theorem State.flushTlb_vl (rs1 rs2 : Reg) : (s.flushTlb rs1 rs2).vl = s.vl := rfl
@[simp] theorem State.flushTlb_vcfgd (rs1 rs2 : Reg) : (s.flushTlb rs1 rs2).vcfgd = s.vcfgd := rfl
@[simp] theorem State.flushTlb_staleFetch (rs1 rs2 : Reg) : (s.flushTlb rs1 rs2).staleFetch = s.staleFetch := rfl
@[simp] theorem State.flushTlb_mem (rs1 rs2 : Reg) : (s.flushTlb rs1 rs2).mem = s.mem := rfl
@[simp] theorem State.flushTlb_inputs (rs1 rs2 : Reg) : (s.flushTlb rs1 rs2).inputs = s.inputs := rfl
@[simp] theorem State.flushTlb_free (rs1 rs2 : Reg) : (s.flushTlb rs1 rs2).free = s.free := rfl

@[simp] theorem State.setElem_cfg (r : Reg) (i : Nat) (v : Word) : (s.setElem r i v).cfg = s.cfg := rfl
@[simp] theorem State.setElem_x (r : Reg) (i : Nat) (v : Word) : (s.setElem r i v).x = s.x := rfl
@[simp] theorem State.setElem_pc (r : Reg) (i : Nat) (v : Word) : (s.setElem r i v).pc = s.pc := rfl
@[simp] theorem State.setElem_priv (r : Reg) (i : Nat) (v : Word) : (s.setElem r i v).priv = s.priv := rfl
@[simp] theorem State.setElem_f (r : Reg) (i : Nat) (v : Word) : (s.setElem r i v).f = s.f := rfl
@[simp] theorem State.setElem_fcsr (r : Reg) (i : Nat) (v : Word) : (s.setElem r i v).fcsr = s.fcsr := rfl
@[simp] theorem State.setElem_reservation (r : Reg) (i : Nat) (v : Word) : (s.setElem r i v).reservation = s.reservation := rfl
@[simp] theorem State.setElem_waiting (r : Reg) (i : Nat) (v : Word) : (s.setElem r i v).waiting = s.waiting := rfl
@[simp] theorem State.setElem_mstatus (r : Reg) (i : Nat) (v : Word) : (s.setElem r i v).mstatus = s.mstatus := rfl
@[simp] theorem State.setElem_mtvec (r : Reg) (i : Nat) (v : Word) : (s.setElem r i v).mtvec = s.mtvec := rfl
@[simp] theorem State.setElem_mepc (r : Reg) (i : Nat) (v : Word) : (s.setElem r i v).mepc = s.mepc := rfl
@[simp] theorem State.setElem_mcause (r : Reg) (i : Nat) (v : Word) : (s.setElem r i v).mcause = s.mcause := rfl
@[simp] theorem State.setElem_mtval (r : Reg) (i : Nat) (v : Word) : (s.setElem r i v).mtval = s.mtval := rfl
@[simp] theorem State.setElem_mscratch (r : Reg) (i : Nat) (v : Word) : (s.setElem r i v).mscratch = s.mscratch := rfl
@[simp] theorem State.setElem_mie (r : Reg) (i : Nat) (v : Word) : (s.setElem r i v).mie = s.mie := rfl
@[simp] theorem State.setElem_ssip (r : Reg) (i : Nat) (v : Word) : (s.setElem r i v).ssip = s.ssip := rfl
@[simp] theorem State.setElem_stip (r : Reg) (i : Nat) (v : Word) : (s.setElem r i v).stip = s.stip := rfl
@[simp] theorem State.setElem_seip (r : Reg) (i : Nat) (v : Word) : (s.setElem r i v).seip = s.seip := rfl
@[simp] theorem State.setElem_meipLine (r : Reg) (i : Nat) (v : Word) : (s.setElem r i v).meipLine = s.meipLine := rfl
@[simp] theorem State.setElem_seipLine (r : Reg) (i : Nat) (v : Word) : (s.setElem r i v).seipLine = s.seipLine := rfl
@[simp] theorem State.setElem_medeleg (r : Reg) (i : Nat) (v : Word) : (s.setElem r i v).medeleg = s.medeleg := rfl
@[simp] theorem State.setElem_mideleg (r : Reg) (i : Nat) (v : Word) : (s.setElem r i v).mideleg = s.mideleg := rfl
@[simp] theorem State.setElem_pmpcfg (r : Reg) (i : Nat) (v : Word) : (s.setElem r i v).pmpcfg = s.pmpcfg := rfl
@[simp] theorem State.setElem_pmpaddr (r : Reg) (i : Nat) (v : Word) : (s.setElem r i v).pmpaddr = s.pmpaddr := rfl
@[simp] theorem State.setElem_stvec (r : Reg) (i : Nat) (v : Word) : (s.setElem r i v).stvec = s.stvec := rfl
@[simp] theorem State.setElem_sepc (r : Reg) (i : Nat) (v : Word) : (s.setElem r i v).sepc = s.sepc := rfl
@[simp] theorem State.setElem_scause (r : Reg) (i : Nat) (v : Word) : (s.setElem r i v).scause = s.scause := rfl
@[simp] theorem State.setElem_sscratch (r : Reg) (i : Nat) (v : Word) : (s.setElem r i v).sscratch = s.sscratch := rfl
@[simp] theorem State.setElem_stval (r : Reg) (i : Nat) (v : Word) : (s.setElem r i v).stval = s.stval := rfl
@[simp] theorem State.setElem_satp (r : Reg) (i : Nat) (v : Word) : (s.setElem r i v).satp = s.satp := rfl
@[simp] theorem State.setElem_cycle (r : Reg) (i : Nat) (v : Word) : (s.setElem r i v).cycle = s.cycle := rfl
@[simp] theorem State.setElem_instret (r : Reg) (i : Nat) (v : Word) : (s.setElem r i v).instret = s.instret := rfl
@[simp] theorem State.setElem_mtime (r : Reg) (i : Nat) (v : Word) : (s.setElem r i v).mtime = s.mtime := rfl
@[simp] theorem State.setElem_mtimecmp (r : Reg) (i : Nat) (v : Word) : (s.setElem r i v).mtimecmp = s.mtimecmp := rfl
@[simp] theorem State.setElem_msip (r : Reg) (i : Nat) (v : Word) : (s.setElem r i v).msip = s.msip := rfl
@[simp] theorem State.setElem_vtype (r : Reg) (i : Nat) (v : Word) : (s.setElem r i v).vtype = s.vtype := rfl
@[simp] theorem State.setElem_vp (r : Reg) (i : Nat) (v : Word) : (s.setElem r i v).vp = s.vp := rfl
@[simp] theorem State.setElem_vpOn (r : Reg) (i : Nat) (v : Word) : (s.setElem r i v).vpOn = s.vpOn := rfl
@[simp] theorem State.setElem_vfill (r : Reg) (i : Nat) (v : Word) : (s.setElem r i v).vfill = s.vfill := rfl
@[simp] theorem State.setElem_vl (r : Reg) (i : Nat) (v : Word) : (s.setElem r i v).vl = s.vl := rfl
@[simp] theorem State.setElem_vcfgd (r : Reg) (i : Nat) (v : Word) : (s.setElem r i v).vcfgd = s.vcfgd := rfl
@[simp] theorem State.setElem_tlb (r : Reg) (i : Nat) (v : Word) : (s.setElem r i v).tlb = s.tlb := rfl
@[simp] theorem State.setElem_staleFetch (r : Reg) (i : Nat) (v : Word) : (s.setElem r i v).staleFetch = s.staleFetch := rfl
@[simp] theorem State.setElem_mem (r : Reg) (i : Nat) (v : Word) : (s.setElem r i v).mem = s.mem := rfl
@[simp] theorem State.setElem_inputs (r : Reg) (i : Nat) (v : Word) : (s.setElem r i v).inputs = s.inputs := rfl
@[simp] theorem State.setElem_free (r : Reg) (i : Nat) (v : Word) : (s.setElem r i v).free = s.free := rfl

@[simp] theorem State.setPbit_cfg (p : PReg) (i : Nat) (b : Bool) : (s.setPbit p i b).cfg = s.cfg := rfl
@[simp] theorem State.setPbit_x (p : PReg) (i : Nat) (b : Bool) : (s.setPbit p i b).x = s.x := rfl
@[simp] theorem State.setPbit_pc (p : PReg) (i : Nat) (b : Bool) : (s.setPbit p i b).pc = s.pc := rfl
@[simp] theorem State.setPbit_priv (p : PReg) (i : Nat) (b : Bool) : (s.setPbit p i b).priv = s.priv := rfl
@[simp] theorem State.setPbit_f (p : PReg) (i : Nat) (b : Bool) : (s.setPbit p i b).f = s.f := rfl
@[simp] theorem State.setPbit_fcsr (p : PReg) (i : Nat) (b : Bool) : (s.setPbit p i b).fcsr = s.fcsr := rfl
@[simp] theorem State.setPbit_reservation (p : PReg) (i : Nat) (b : Bool) : (s.setPbit p i b).reservation = s.reservation := rfl
@[simp] theorem State.setPbit_waiting (p : PReg) (i : Nat) (b : Bool) : (s.setPbit p i b).waiting = s.waiting := rfl
@[simp] theorem State.setPbit_mstatus (p : PReg) (i : Nat) (b : Bool) : (s.setPbit p i b).mstatus = s.mstatus := rfl
@[simp] theorem State.setPbit_mtvec (p : PReg) (i : Nat) (b : Bool) : (s.setPbit p i b).mtvec = s.mtvec := rfl
@[simp] theorem State.setPbit_mepc (p : PReg) (i : Nat) (b : Bool) : (s.setPbit p i b).mepc = s.mepc := rfl
@[simp] theorem State.setPbit_mcause (p : PReg) (i : Nat) (b : Bool) : (s.setPbit p i b).mcause = s.mcause := rfl
@[simp] theorem State.setPbit_mtval (p : PReg) (i : Nat) (b : Bool) : (s.setPbit p i b).mtval = s.mtval := rfl
@[simp] theorem State.setPbit_mscratch (p : PReg) (i : Nat) (b : Bool) : (s.setPbit p i b).mscratch = s.mscratch := rfl
@[simp] theorem State.setPbit_mie (p : PReg) (i : Nat) (b : Bool) : (s.setPbit p i b).mie = s.mie := rfl
@[simp] theorem State.setPbit_ssip (p : PReg) (i : Nat) (b : Bool) : (s.setPbit p i b).ssip = s.ssip := rfl
@[simp] theorem State.setPbit_stip (p : PReg) (i : Nat) (b : Bool) : (s.setPbit p i b).stip = s.stip := rfl
@[simp] theorem State.setPbit_seip (p : PReg) (i : Nat) (b : Bool) : (s.setPbit p i b).seip = s.seip := rfl
@[simp] theorem State.setPbit_meipLine (p : PReg) (i : Nat) (b : Bool) : (s.setPbit p i b).meipLine = s.meipLine := rfl
@[simp] theorem State.setPbit_seipLine (p : PReg) (i : Nat) (b : Bool) : (s.setPbit p i b).seipLine = s.seipLine := rfl
@[simp] theorem State.setPbit_medeleg (p : PReg) (i : Nat) (b : Bool) : (s.setPbit p i b).medeleg = s.medeleg := rfl
@[simp] theorem State.setPbit_mideleg (p : PReg) (i : Nat) (b : Bool) : (s.setPbit p i b).mideleg = s.mideleg := rfl
@[simp] theorem State.setPbit_pmpcfg (p : PReg) (i : Nat) (b : Bool) : (s.setPbit p i b).pmpcfg = s.pmpcfg := rfl
@[simp] theorem State.setPbit_pmpaddr (p : PReg) (i : Nat) (b : Bool) : (s.setPbit p i b).pmpaddr = s.pmpaddr := rfl
@[simp] theorem State.setPbit_stvec (p : PReg) (i : Nat) (b : Bool) : (s.setPbit p i b).stvec = s.stvec := rfl
@[simp] theorem State.setPbit_sepc (p : PReg) (i : Nat) (b : Bool) : (s.setPbit p i b).sepc = s.sepc := rfl
@[simp] theorem State.setPbit_scause (p : PReg) (i : Nat) (b : Bool) : (s.setPbit p i b).scause = s.scause := rfl
@[simp] theorem State.setPbit_sscratch (p : PReg) (i : Nat) (b : Bool) : (s.setPbit p i b).sscratch = s.sscratch := rfl
@[simp] theorem State.setPbit_stval (p : PReg) (i : Nat) (b : Bool) : (s.setPbit p i b).stval = s.stval := rfl
@[simp] theorem State.setPbit_satp (p : PReg) (i : Nat) (b : Bool) : (s.setPbit p i b).satp = s.satp := rfl
@[simp] theorem State.setPbit_cycle (p : PReg) (i : Nat) (b : Bool) : (s.setPbit p i b).cycle = s.cycle := rfl
@[simp] theorem State.setPbit_instret (p : PReg) (i : Nat) (b : Bool) : (s.setPbit p i b).instret = s.instret := rfl
@[simp] theorem State.setPbit_mtime (p : PReg) (i : Nat) (b : Bool) : (s.setPbit p i b).mtime = s.mtime := rfl
@[simp] theorem State.setPbit_mtimecmp (p : PReg) (i : Nat) (b : Bool) : (s.setPbit p i b).mtimecmp = s.mtimecmp := rfl
@[simp] theorem State.setPbit_msip (p : PReg) (i : Nat) (b : Bool) : (s.setPbit p i b).msip = s.msip := rfl
@[simp] theorem State.setPbit_vregs (p : PReg) (i : Nat) (b : Bool) : (s.setPbit p i b).vregs = s.vregs := rfl
@[simp] theorem State.setPbit_vtype (p : PReg) (i : Nat) (b : Bool) : (s.setPbit p i b).vtype = s.vtype := rfl
@[simp] theorem State.setPbit_vpOn (p : PReg) (i : Nat) (b : Bool) : (s.setPbit p i b).vpOn = s.vpOn := rfl
@[simp] theorem State.setPbit_vfill (p : PReg) (i : Nat) (b : Bool) : (s.setPbit p i b).vfill = s.vfill := rfl
@[simp] theorem State.setPbit_vl (p : PReg) (i : Nat) (b : Bool) : (s.setPbit p i b).vl = s.vl := rfl
@[simp] theorem State.setPbit_vcfgd (p : PReg) (i : Nat) (b : Bool) : (s.setPbit p i b).vcfgd = s.vcfgd := rfl
@[simp] theorem State.setPbit_tlb (p : PReg) (i : Nat) (b : Bool) : (s.setPbit p i b).tlb = s.tlb := rfl
@[simp] theorem State.setPbit_staleFetch (p : PReg) (i : Nat) (b : Bool) : (s.setPbit p i b).staleFetch = s.staleFetch := rfl
@[simp] theorem State.setPbit_mem (p : PReg) (i : Nat) (b : Bool) : (s.setPbit p i b).mem = s.mem := rfl
@[simp] theorem State.setPbit_inputs (p : PReg) (i : Nat) (b : Bool) : (s.setPbit p i b).inputs = s.inputs := rfl
@[simp] theorem State.setPbit_free (p : PReg) (i : Nat) (b : Bool) : (s.setPbit p i b).free = s.free := rfl

end Sys2Proof.Machine
end

