-- ==== Sys2Proof/Laws/Memory.lean ====
section
/-!
SUPPORT. Memory: a read after a write, and the canonical form (20_memory.md rules R100, R101).
-/

namespace Sys2Proof.Machine

/-! ## Lists of numbered cells -/

section Cells

variable {α : Type}

theorem cellFind_cellPut (j k : Nat) (v : α) (cs : List (Nat × α)) :
    cellFind j (cellPut k v cs) = if j = k then some v else cellFind j cs := by
  induction cs with
  | nil => by_cases h : j = k <;> simp [cellPut, cellFind, h]
  | cons c cs ih =>
    unfold cellPut
    split
    · by_cases h : j = k <;> simp [cellFind, h]
    · split
      · rename_i h2
        by_cases h : j = k <;> simp [cellFind, h, ← h2]
      · rename_i h1 h2
        by_cases hc : j = c.1
        · have : j ≠ k := fun e => h2 (by omega)
          simp [cellFind, hc, show c.1 ≠ k by omega]
        · simp [cellFind, hc, ih]

theorem cellFind_cellDrop (j k : Nat) (cs : List (Nat × α)) :
    cellFind j (cellDrop k cs) = if j = k then none else cellFind j cs := by
  induction cs with
  | nil => simp [cellDrop, cellFind]
  | cons c cs ih =>
    unfold cellDrop
    split
    · rename_i h
      by_cases hj : j = k
      · rw [ih]; simp [hj]
      · simp [ih, hj, cellFind, ← h]
    · rename_i h
      by_cases hc : j = c.1
      · simp [cellFind, hc, show c.1 ≠ k by omega]
      · simp [cellFind, hc, ih]

theorem risingFrom_mono {lo hi : Nat} {cs : List (Nat × α)} (h : hi ≤ lo) (hr : risingFrom lo cs = true) :
    risingFrom hi cs = true := by
  cases cs with
  | nil => rfl
  | cons c cs => simp only [risingFrom, Bool.and_eq_true, decide_eq_true_eq] at *; exact ⟨by omega, hr.2⟩

theorem risingFrom_cellPut {lo k : Nat} (v : α) {cs : List (Nat × α)} (hk : lo ≤ k) (hr : risingFrom lo cs = true) :
    risingFrom lo (cellPut k v cs) = true := by
  induction cs generalizing lo with
  | nil => simp [cellPut, risingFrom, hk]
  | cons c cs ih =>
    simp only [risingFrom, Bool.and_eq_true, decide_eq_true_eq] at hr
    unfold cellPut
    split
    · simp only [risingFrom, Bool.and_eq_true, decide_eq_true_eq]
      exact ⟨hk, by omega, hr.2⟩
    · split
      · rename_i h2
        simp only [risingFrom, Bool.and_eq_true, decide_eq_true_eq]
        exact ⟨hk, by rw [h2]; exact hr.2⟩
      · simp only [risingFrom, Bool.and_eq_true, decide_eq_true_eq]
        exact ⟨hr.1, ih (by omega) hr.2⟩

theorem risingFrom_cellDrop {lo k : Nat} {cs : List (Nat × α)} (hr : risingFrom lo cs = true) :
    risingFrom lo (cellDrop k cs) = true := by
  induction cs generalizing lo with
  | nil => rfl
  | cons c cs ih =>
    simp only [risingFrom, Bool.and_eq_true, decide_eq_true_eq] at hr
    unfold cellDrop
    split
    · exact risingFrom_mono (by omega) (ih hr.2)
    · simp only [risingFrom, Bool.and_eq_true, decide_eq_true_eq]
      exact ⟨hr.1, ih hr.2⟩

theorem all_cellPut {k : Nat} {v : α} {p : Nat × α → Bool} {cs : List (Nat × α)} (hv : p (k, v) = true)
    (hs : cs.all p = true) : (cellPut k v cs).all p = true := by
  induction cs with
  | nil => simp [cellPut, hv]
  | cons c cs ih =>
    simp only [List.all_cons, Bool.and_eq_true] at hs
    unfold cellPut
    split
    · simp [hv, hs]
    · split
      · simp [hv, hs]
      · simp [hs.1, ih hs.2]

theorem all_cellDrop {k : Nat} {p : Nat × α → Bool} {cs : List (Nat × α)} (hs : cs.all p = true) :
    (cellDrop k cs).all p = true := by
  induction cs with
  | nil => simp [cellDrop]
  | cons c cs ih =>
    simp only [List.all_cons, Bool.and_eq_true] at hs
    unfold cellDrop
    split
    · exact ih hs.2
    · simp [hs.1, ih hs.2]

end Cells

/-! ## One byte -/

/-- Reading a byte after writing one. -/
theorem Memory.read_write (m : Memory) (a b : Nat) (v : Byte) :
    (m.write a v).read b = if b = a then v else m.read b := by
  unfold Memory.write Memory.read
  split
  · rename_i h
    rw [cellFind_cellDrop]
    split <;> simp [h]
  · rw [cellFind_cellPut]
    split <;> simp

theorem Memory.read_write_same (m : Memory) (a : Nat) (v : Byte) : (m.write a v).read a = v := by
  simp [Memory.read_write]

theorem Memory.read_write_other (m : Memory) {a b : Nat} (h : b ≠ a) (v : Byte) : (m.write a v).read b = m.read b := by
  simp [Memory.read_write, h]

/-- Writing a byte keeps the canonical form. -/
theorem Memory.wf_write {m : Memory} (a : Nat) (v : Byte) (h : m.wf = true) : (m.write a v).wf = true := by
  unfold Memory.wf at *
  simp only [Bool.and_eq_true] at *
  unfold Memory.write
  split
  · exact ⟨risingFrom_cellDrop h.1, all_cellDrop h.2⟩
  · rename_i hv
    exact ⟨risingFrom_cellPut v (Nat.zero_le _) h.1, all_cellPut (by simpa using hv) h.2⟩

/-! ## Several bytes -/

theorem Memory.wf_writeAt {m : Memory} (as : List Nat) (v : Nat) (h : m.wf = true) : (m.writeAt as v).wf = true := by
  induction as generalizing m v with
  | nil => exact h
  | cons a as ih => exact ih _ (Memory.wf_write a _ h)

theorem Memory.wf_writeMain {c : Config} {m : Memory} (as : List Nat) (v : Nat) (h : m.wf = true) :
    (m.writeMain c as v).wf = true := by
  induction as generalizing m v with
  | nil => exact h
  | cons a as ih =>
    simp only [Memory.writeMain]
    refine ih _ ?_
    split
    · exact h
    · exact Memory.wf_write a _ h

/-- Where no address is a device's, all bytes are written. -/
theorem Memory.writeMain_eq {c : Config} {m : Memory} {as : List Nat} (v : Nat) (h : ∀ a ∈ as, onDevice c a = false) :
    m.writeMain c as v = m.writeAt as v := by
  induction as generalizing m v with
  | nil => rfl
  | cons a as ih =>
    simp only [Memory.writeMain, Memory.writeAt, h a List.mem_cons_self]
    exact ih _ fun b hb => h b (List.mem_cons_of_mem a hb)

/-- Where no address is a device's, a load reads memory. -/
theorem State.readBytes_eq {s : State} {as : List Nat} (h : ∀ a ∈ as, onDevice s.cfg a = false) :
    s.readBytes as = s.mem.readAt as := by
  induction as with
  | nil => rfl
  | cons a as ih =>
    simp only [State.readBytes, Memory.readAt, State.byteAt, h a List.mem_cons_self]
    rw [ih fun b hb => h b (List.mem_cons_of_mem a hb)]
    simp

/-- Where no address is a device's, nothing is drawn. -/
theorem State.readDone_eq {s : State} {p : Place} {n : Nat} (h : ∀ a ∈ p.addrs n, onDevice s.cfg a = false) :
    s.readDone p n = s := by
  have : (p.addrs n).any (onDevice s.cfg) = false := by simpa using h
  unfold State.readDone
  rw [this]
  simp

/-- A byte outside the addresses written reads as before. -/
theorem Memory.read_writeAt_other (m : Memory) (as : List Nat) (v b : Nat) (h : b ∉ as) :
    (m.writeAt as v).read b = m.read b := by
  induction as generalizing m v with
  | nil => rfl
  | cons a as ih =>
    simp only [List.mem_cons, not_or] at h
    simp only [Memory.writeAt]
    rw [ih _ _ h.2, Memory.read_write_other _ h.1]

/-- The byte at the place `k` of distinct addresses written is byte `k` of the value. -/
theorem Memory.read_writeAt_get (m : Memory) (as : List Nat) (v k : Nat) (hd : as.Nodup) (hk : k < as.length) :
    (m.writeAt as v).read as[k] = BitVec.ofNat 8 (v / 256 ^ k) := by
  induction as generalizing m v k with
  | nil => simp at hk
  | cons a as ih =>
    simp only [Memory.writeAt]
    rw [List.nodup_cons] at hd
    cases k with
    | zero => simp [Memory.read_writeAt_other _ _ _ _ hd.1, Memory.read_write_same]
    | succ k =>
      simp only [List.getElem_cons_succ]
      rw [ih _ _ _ hd.2 (by simpa using hk), Nat.div_div_eq_div_mul, Nat.pow_succ']

theorem mem_addrsFrom (a n b : Nat) : b ∈ addrsFrom a n ↔ a ≤ b ∧ b < a + n := by
  induction n generalizing a with
  | zero => simp [addrsFrom]
  | succ n ih => simp only [addrsFrom, List.mem_cons, ih]; omega

theorem length_addrsFrom (a n : Nat) : (addrsFrom a n).length = n := by
  induction n generalizing a with
  | zero => rfl
  | succ n ih => simp [addrsFrom, ih]

theorem nodup_addrsFrom (a n : Nat) : (addrsFrom a n).Nodup := by
  induction n generalizing a with
  | zero => simp [addrsFrom]
  | succ n ih => simp [addrsFrom, mem_addrsFrom, ih]

theorem getElem_addrsFrom (a n k : Nat) (h : k < (addrsFrom a n).length) : (addrsFrom a n)[k] = a + k := by
  induction n generalizing a k with
  | zero => simp [addrsFrom] at h
  | succ n ih =>
    cases k with
    | zero => rfl
    | succ k => simp only [addrsFrom, List.getElem_cons_succ]; rw [ih, Nat.add_right_comm, Nat.add_assoc]

/-! ## The state's memory -/

/-- Every operation that writes memory keeps its form. -/
theorem State.wf_storeBytes {s : State} (as : List Nat) (v : Nat) (h : s.mem.wf = true) :
    (s.storeBytes as v).mem.wf = true := Memory.wf_writeMain as v h

theorem State.wf_writePlace {s : State} (p : Place) (n : Nat) (v : Word) (h : s.mem.wf = true) :
    (s.writePlace p n v).mem.wf = true := by
  unfold State.writePlace
  split
  · rename_i r _
    cases r <;> exact h
  · exact State.wf_storeBytes _ _ h

theorem State.wf_otherWrites {s : State} (cs : List Host.Cell) (h : s.mem.wf = true) :
    (s.otherWrites cs).mem.wf = true := by
  induction cs generalizing s with
  | nil => exact h
  | cons c cs ih => exact ih (Memory.wf_write _ _ h)

theorem State.wf_pteWrite {s t : State} {pa : Nat} {pte : Word} (h : s.mem.wf = true)
    (he : s.pteWrite pa pte = some t) : t.mem.wf = true := by
  unfold State.pteWrite at he
  simp only at he
  split at he
  · cases he; exact State.wf_storeBytes _ _ h
  · cases he

theorem State.reset_wf : State.reset.mem.wf = true := rfl

end Sys2Proof.Machine
end

