-- ==== Sys2Proof/Laws/Registers.lean ====
section
/-!
SUPPORT. Registers as numbers, and what the operations that write registers and go on do, as `Did` says it.
-/

namespace Sys2Proof.Machine

/-! ## Widths -/

theorem Xlen.norm_toNat (x : Xlen) (v : Word) : (x.norm v).toNat = v.toNat % 2 ^ x.bits := by
  cases x
  · simp only [Xlen.norm, Xlen.bits, BitVec.toNat_setWidth]
    omega
  · simp only [Xlen.norm, Xlen.bits]
    exact (Nat.mod_eq_of_lt v.isLt).symm

theorem Xlen.bits_cases (x : Xlen) : x.bits = 32 ∨ x.bits = 64 := by cases x <;> simp [Xlen.bits]

theorem Xlen.norm_norm (x : Xlen) (v : Word) : x.norm (x.norm v) = x.norm v := by
  apply BitVec.eq_of_toNat_eq
  rw [Xlen.norm_toNat, Xlen.norm_toNat, Nat.mod_mod]

theorem Xlen.norm_zero (x : Xlen) : x.norm 0 = 0 := by cases x <;> rfl

/-! ## Reading registers after writing one -/

theorem State.getX_setX (s : State) (rd r : Reg) (v : Word) :
    (s.setX rd v).getX r = if r ≠ 0 ∧ rd = r then s.cfg.xlen.norm v else s.getX r := by
  unfold State.getX
  by_cases h0 : r = 0
  · simp [h0]
  · simp only [h0, if_false, ne_eq, not_false_eq_true, true_and]
    by_cases hr : rd = r
    · subst hr
      simp only [State.setX, h0, if_false, if_true]
      rw [show (s.x.set rd.toNat (s.cfg.xlen.norm v) rd.isLt).get rd.toFin = s.cfg.xlen.norm v from
        Vector.getElem_set_self rd.isLt]
      exact Xlen.norm_norm _ _
    · simp only [hr, if_false, State.setX]
      by_cases hd : rd = 0
      · simp [hd]
      · simp only [hd, if_false]
        congr 1
        exact Vector.getElem_set_ne rd.isLt r.isLt (fun e => hr (BitVec.eq_of_toNat_eq e))

theorem State.getX_lt (s : State) (r : Reg) : (s.getX r).toNat < 2 ^ s.cfg.xlen.bits := by
  unfold State.getX
  split
  · simp
  · rw [Xlen.norm_toNat]
    exact Nat.mod_lt _ (Nat.two_pow_pos _)

/-- An update that leaves the x registers and the configuration leaves every x register's value. -/
theorem State.getX_congr {s t : State} (hx : t.x = s.x) (hc : t.cfg = s.cfg) (r : Reg) : t.getX r = s.getX r := by
  unfold State.getX; rw [hx, hc]

/-- An update that leaves the f registers and the configuration leaves every f register's value. -/
theorem State.getF_congr {s t : State} (hf : t.f = s.f) (hc : t.cfg = s.cfg) (r : Reg) : t.getF r = s.getF r := by
  unfold State.getF State.flen64; rw [hf, hc]

theorem State.getF_setF (s : State) (rd r : Reg) (v : Word) :
    (s.setF rd v).getF r =
      if rd = r then (if s.flen64 then v else (v.setWidth 32).setWidth 64) else s.getF r := by
  have hget : (s.setF rd v).f.get r.toFin = if rd = r then v else s.f.get r.toFin := by
    by_cases h : rd = r
    · subst h
      simp only [State.setF, if_true]
      exact Vector.getElem_set_self rd.isLt
    · simp only [h, if_false, State.setF]
      exact Vector.getElem_set_ne rd.isLt r.isLt (fun e => h (BitVec.eq_of_toNat_eq e))
  unfold State.getF
  rw [hget, show (s.setF rd v).flen64 = s.flen64 from rfl]
  by_cases h : rd = r <;> simp [h]

/-! ## pc -/

theorem State.pcPlus_toNat (s : State) (n : Nat) : (s.pcPlus (BitVec.ofNat 64 n)).toNat = s.fromPc n := by
  unfold State.pcPlus State.fromPc State.upc wrap State.width
  rw [Xlen.norm_toNat, BitVec.toNat_add, BitVec.toNat_ofNat]
  rcases Xlen.bits_cases s.cfg.xlen with h | h <;> rw [h] <;> omega

theorem State.pcTarget_toNat (s : State) (d : Word) : (s.pcTarget d).toNat = s.fromPc d.toInt := by
  unfold State.pcTarget State.fromPc State.upc wrap State.width
  rw [Xlen.norm_toNat, BitVec.toNat_add, BitVec.toInt_eq_toNat_cond]
  have := d.isLt
  rcases Xlen.bits_cases s.cfg.xlen with h | h <;> rw [h] <;> split <;> omega

theorem State.ea_toNat (s : State) (r : Reg) (d : Word) : (s.ea r d).toNat = s.eaOf r d.toInt := by
  unfold State.ea State.eaOf State.ux wrap State.width
  rw [Xlen.norm_toNat, BitVec.toNat_add, BitVec.toInt_eq_toNat_cond]
  have := d.isLt
  rcases Xlen.bits_cases s.cfg.xlen with h | h <;> rw [h] <;> split <;> omega

theorem State.getPc_toNat (s : State) : s.getPc.toNat = s.upc := Xlen.norm_toNat _ _

/-! ## What registers-only operations do -/

/-- The effect of a state that differs in registers, flags, the count and `pc` only. -/
theorem Did.of_registers {s t : State} {e : Effect} (hs : e.stored = fun _ => none) (hr : e.reservation = none)
    (hd : e.draws = 0)
    (rest : t = { s with x := t.x, f := t.f, fcsr := t.fcsr, pc := t.pc, instret := t.instret })
    (xs : ∀ r, t.ux r = if r ≠ 0 ∧ e.x.map Prod.fst = some r then (e.x.map Prod.snd).getD 0 else s.ux r)
    (fs : ∀ r, t.getF r = if e.f.map Prod.fst = some r then (e.f.map Prod.snd).getD 0 else s.getF r)
    (flags : t.fcsr = s.fcsr ||| e.flags.setWidth 8) (next : t.pc.toNat = e.next) (count : t.instret = s.instret + 1) :
    Did s t e := by
  have hm : t.mem = s.mem := by rw [rest]
  have hst : t.staleFetch = s.staleFetch := by rw [rest]
  have hre : t.reservation = s.reservation := by rw [rest]
  have hfr : t.free = s.free := by rw [rest]
  refine
    { xs := xs, fs := fs, flags := flags, next := next, count := count
      bytes := fun a => by rw [hs, hm]; rfl
      fetched := fun _ a => by unfold State.fetchByte; rw [hm, hst]
      fetchedNow := fun _ => hst
      setsReservation := fun r h => by rw [hr] at h; cases h
      breaksReservation := ?_
      keepsReservation := fun _ _ => hre
      draws := by rw [hfr, hd, Nat.add_zero]
      rest := ?_ }
  · rintro _ v _ ⟨a, ha, _⟩
    rw [hs] at ha
    cases ha
  · rw [hm, hst, hre, hfr]
    exact rest

/-- `writeX` writes one x register and goes on. -/
theorem State.did_writeX (s : State) (rd : Reg) (v : Word) (len : Nat) :
    Did s ((s.setX rd v).retire (BitVec.ofNat 64 len))
      { Effect.nothing (s.fromPc len) with x := some (rd, v.toNat % 2 ^ s.width) } := by
  refine Did.of_registers rfl rfl rfl rfl ?_ ?_ ?_ ?_ rfl
  · intro r
    have h : ((s.setX rd v).retire (BitVec.ofNat 64 len)).getX r = (s.setX rd v).getX r := rfl
    simp only [State.ux, h, State.getX_setX, Option.map_some, Option.some.injEq, Option.getD_some]
    split
    · exact Xlen.norm_toNat _ _
    · rfl
  · intro r; simp [Effect.nothing]; rfl
  · simp [Effect.nothing]
  · exact State.pcPlus_toNat s len

/-- An instruction that is one `writeX`, as a claim of `GivesX`. -/
theorem givesX_of_writeX {i : Instr} {s : State} {rd : Reg} {v : Word} {len n : Nat}
    (h : exec i s = s.writeX rd v (BitVec.ofNat 64 len)) (hv : v.toNat % 2 ^ s.width = n) : GivesX i s len rd n :=
  ⟨_, h, hv ▸ State.did_writeX s rd v len⟩

/-- `setF` writes one f register, `accrue` sets the flags, and the instruction goes on. -/
theorem State.did_putF (s : State) (rd : Reg) (v : Word) (fl : BitVec 5) (len : Nat)
    (hv : s.flen64 = true ∨ v.toNat < 2 ^ 32) :
    Did s (((s.setF rd v).accrue fl).retire (BitVec.ofNat 64 len))
      { Effect.nothing (s.fromPc len) with f := some (rd, v), flags := fl } := by
  refine Did.of_registers rfl rfl rfl rfl ?_ ?_ rfl ?_ rfl
  · intro r; simp [Effect.nothing]; rfl
  · intro r
    have h : (((s.setF rd v).accrue fl).retire (BitVec.ofNat 64 len)).getF r = (s.setF rd v).getF r := rfl
    rw [h, State.getF_setF]
    simp only [Option.map_some, Option.some.injEq, Option.getD_some]
    by_cases hr : rd = r
    · simp only [hr, if_true]
      rcases hv with hf | hv
      · simp [hf]
      · split
        · rfl
        · apply BitVec.eq_of_toNat_eq
          simp only [BitVec.toNat_setWidth]
          omega
    · simp [hr]
  · exact State.pcPlus_toNat s len

/-- `setX` and `accrue`, and the instruction goes on. -/
theorem State.did_putX (s : State) (rd : Reg) (v : Word) (fl : BitVec 5) :
    Did s (((s.setX rd v).accrue fl).retire 4)
      { Effect.nothing (s.fromPc 4) with x := some (rd, v.toNat % 2 ^ s.width), flags := fl } := by
  refine Did.of_registers rfl rfl rfl rfl ?_ ?_ rfl ?_ rfl
  · intro r
    have h : (((s.setX rd v).accrue fl).retire 4).getX r = (s.setX rd v).getX r := rfl
    simp only [State.ux, h, State.getX_setX, Option.map_some, Option.some.injEq, Option.getD_some]
    split
    · exact Xlen.norm_toNat _ _
    · rfl
  · intro r; simp [Effect.nothing]; rfl
  · exact State.pcPlus_toNat s 4

/-- Going to a target without a link. -/
theorem State.did_retireAt (s : State) (target : Word) (n : Nat) (h : target.toNat = n) :
    Did s (s.retireAt target) (Effect.nothing n) :=
  Did.of_registers rfl rfl rfl rfl (fun r => by simp [Effect.nothing]; rfl) (fun r => by simp [Effect.nothing]; rfl)
    (by simp [Effect.nothing]) h rfl

/-- Going on. -/
theorem State.did_retire (s : State) (len : Nat) :
    Did s (s.retire (BitVec.ofNat 64 len)) (Effect.nothing (s.fromPc len)) :=
  State.did_retireAt s _ _ (State.pcPlus_toNat s len)

end Sys2Proof.Machine
end

