-- ==== Sys2Proof/Laws/Outcomes.lean ====
section
/-!
SUPPORT. What each shared operation can answer, said once: a translation and an access change only what a page-table
update, a store or a device write can; a jump, a CSR access and a rounding instruction each have two outcomes; a step
has three fronts.
-/

namespace Sys2Proof.Machine

/-! ## Translation and access -/

/-- `t` is `s` but for memory, the stale view, the reservation and the cached translations: what looking up an address
can change. -/
def State.LookedUp (s t : State) : Prop :=
  t = { s with mem := t.mem, staleFetch := t.staleFetch, reservation := t.reservation, tlb := t.tlb }

theorem State.LookedUp.refl (s : State) : s.LookedUp s := rfl

theorem State.LookedUp.trans {s t u : State} (h : s.LookedUp t) (k : t.LookedUp u) : s.LookedUp u := by
  unfold State.LookedUp at *
  rw [k, h]

theorem State.lookedUp_storeBytes (s : State) (as : List Nat) (v : Nat) : s.LookedUp (s.storeBytes as v) := rfl

theorem State.lookedUp_cacheLeaf (s : State) (va pte : Word) (i : Nat) : s.LookedUp (s.cacheLeaf va pte i) := rfl

theorem State.lookedUp_pteWrite {s t : State} {pa : Nat} {pte : Word} (h : s.pteWrite pa pte = some t) :
    s.LookedUp t := by
  simp only [State.pteWrite] at h
  split at h <;> cases h
  exact s.lookedUp_storeBytes _ _

theorem State.lookedUp_useLeaf {s t : State} {k : Access} {p : Priv} {va : Word} {leaf : Leaf} {pa : Nat}
    (h : s.useLeaf k p va leaf = .ok (t, pa)) : s.LookedUp t := by
  obtain ⟨pte, i, at_⟩ := leaf
  simp only [State.useLeaf] at h
  split at h
  · cases h
  split at h
  · cases h; exact s.lookedUp_cacheLeaf _ _ _
  split at h
  · cases h
  split at h
  · cases h
  · rename_i u hu
    cases h
    exact (State.lookedUp_pteWrite hu).trans (u.lookedUp_cacheLeaf _ _ _)

/-- What a translation that succeeds can have changed. -/
theorem State.lookedUp_translate {s t : State} {k : Access} {p : Priv} {va : Word} {pa : Nat}
    (h : s.translate p k va = .ok (t, pa)) : s.LookedUp t := by
  unfold State.translate at h
  split at h
  · cases h; exact .refl s
  split at h
  · cases h
  split at h
  · split at h
    · cases h; exact .refl s
    · cases h
  · split at h
    · cases h
    · exact State.lookedUp_useLeaf h

theorem State.lookedUp_locateOne {s t : State} {k : Access} {a : Word} {n pa : Nat}
    (h : s.locateOne k a n = .ok (t, pa)) : s.LookedUp t := by
  unfold State.locateOne at h
  split at h
  · cases h
  · rename_i hu
    split at h <;> cases h
    exact State.lookedUp_translate hu

theorem State.lookedUp_locateBytes {k : Access} {n : Nat} :
    ∀ {s t : State} {a : Word} {pas : List Nat}, s.locateBytes k a n = .ok (t, pas) → s.LookedUp t := by
  induction n with
  | zero => intro s t a pas h; cases h; exact .refl s
  | succ n ih =>
    intro s t a pas h
    simp only [State.locateBytes] at h
    split at h
    · cases h
    · rename_i hu
      split at h <;> cases h
      rename_i hv
      exact (State.lookedUp_locateOne hu).trans (ih hv)

/-- What finding the place of an access can have changed. -/
theorem State.lookedUp_locate {s t : State} {k : Access} {a : Word} {n : Nat} {p : Place}
    (h : s.locate k a n = .ok (t, p)) : s.LookedUp t := by
  unfold State.locate at h
  split at h
  · split at h <;> cases h
    rename_i hu
    exact State.lookedUp_locateOne hu
  split at h
  · cases h
  · split at h <;> cases h
    rename_i hu
    exact State.lookedUp_locateBytes hu

/-- What reading memory can have changed: what looking up the address can, and the count of draws. -/
theorem State.lookedUp_memRead {s t : State} {a v : Word} {n : Nat} (h : s.memRead a n = .ok (t, v)) :
    ∃ u, s.LookedUp u ∧ t = { u with free := t.free } := by
  unfold State.memRead at h
  split at h <;> cases h
  rename_i hu
  exact ⟨_, State.lookedUp_locate hu, rfl⟩

/-- What a fetched parcel can have changed. -/
theorem State.lookedUp_fetchParcel {s t : State} {a : Word} {b : BitVec 16} (h : s.fetchParcel a = .ok (t, b)) :
    s.LookedUp t := by
  unfold State.fetchParcel at h
  split at h
  · cases h
  · rename_i hu
    split at h <;> cases h
    exact State.lookedUp_translate hu

/-- What a fetch can have changed. -/
theorem State.lookedUp_fetch {s t : State} {b : Bits} (h : s.fetch = .ok (t, b)) : s.LookedUp t := by
  unfold State.fetch at h
  split at h
  · cases h
  · rename_i hu
    split at h
    · split at h <;> cases h
      rename_i hv
      exact (State.lookedUp_fetchParcel hu).trans (State.lookedUp_fetchParcel hv)
    · cases h; exact State.lookedUp_fetchParcel hu

/-- `t` is `s` but for what looking up an address can change and the memory-mapped registers: what a write can
change. -/
def State.Written (s t : State) : Prop :=
  t = { s with mem := t.mem, staleFetch := t.staleFetch, reservation := t.reservation, tlb := t.tlb,
               mtime := t.mtime, mtimecmp := t.mtimecmp, msip := t.msip }

theorem State.LookedUp.written {s t u : State} (h : s.LookedUp t) (k : t.Written u) : s.Written u := by
  unfold State.LookedUp State.Written at *
  rw [k, h]

theorem State.written_writePlace (s : State) (p : Place) (n : Nat) (v : Word) : s.Written (s.writePlace p n v) := by
  unfold State.writePlace
  split
  · rename_i r _; cases r <;> rfl
  · rfl

/-- What writing memory can have changed. -/
theorem State.written_memWrite {s t : State} {a v : Word} {n : Nat} (h : s.memWrite a n v = .ok t) : s.Written t := by
  unfold State.memWrite at h
  split at h <;> cases h
  rename_i hu
  exact (State.lookedUp_locate hu).written (State.written_writePlace _ _ _ _)

/-! ## Control flow, CSRs, rounding -/

/-- A jump goes to an aligned target, or raises with it. -/
theorem State.jumpTo_cases (s : State) (target : Word) :
    (target &&& ~~~s.cfg.ialignMask = 0 ∧ s.jumpTo target = .ok (s.retireAt target)) ∨
    (target &&& ~~~s.cfg.ialignMask ≠ 0 ∧ s.jumpTo target = .error ⟨.instrMisaligned, target⟩) := by
  unfold State.jumpTo
  split
  · exact .inl ⟨‹_›, rfl⟩
  · exact .inr ⟨‹_›, rfl⟩

/-- An instruction that either completes or raises has a next state. -/
theorem State.finish_eq (s : State) (r : Except Trap State) :
    s.finish r = .next (match r with | .ok t => t | .error e => s.raise e) := by
  cases r <;> rfl

/-- A CSR access reads, and where it writes writes, a CSR that the hart has and the mode may use; or it is illegal. -/
theorem State.csrAccess_cases (s : State) (i : Instr) (rd : Reg) (a : BitVec 12) (new : Option (Word → Word)) :
    s.csrAccess i rd a new = .next (s.illegal i) ∨
    ∃ r, csrOf s.cfg a = some r ∧ csrPrivOk s.priv a = true ∧ (new.isSome = true → csrReadOnly a = false) ∧
      s.csrAccess i rd a new = .next ((match new with
        | none => s.setX rd (s.csrRead r)
        | some g => (s.setX rd (s.csrRead r)).csrWrite r (g (s.csrRead r))).retire 4) := by
  unfold State.csrAccess
  split
  · exact .inl rfl
  · rename_i r hr
    split
    · exact .inl rfl
    · rename_i hc
      simp only [Bool.or_eq_true, Bool.not_eq_true', Bool.and_eq_true, not_or, not_and, Bool.not_eq_false,
        Bool.not_eq_true] at hc
      exact .inr ⟨r, hr, hc.1, hc.2, rfl⟩

/-- An instruction with a rounding mode runs in the one selected, or is illegal. -/
theorem State.rounded_cases (s : State) (i : Instr) (rm : BitVec 3) (op : Rm → State) :
    (s.roundingMode rm = none ∧ s.rounded i rm op = .next (s.illegal i)) ∨
    ∃ r, s.roundingMode rm = some r ∧ s.rounded i rm op = .next ((op r).retire 4) := by
  unfold State.rounded
  cases h : s.roundingMode rm with
  | none => exact .inl ⟨rfl, rfl⟩
  | some r => exact .inr ⟨r, rfl, rfl⟩

/-! ## The step -/

/-- What a step comes to before execution: the wait, an interrupt, a trap in fetching or decoding, an instruction. -/
theorem State.front_cases (s : State) :
    (s.waiting = true ∧ s.front = .settled s.waitOn) ∨
    (∃ i, s.waiting = false ∧ s.nextInterrupt = some i ∧ s.front = .settled (s.interrupt i)) ∨
    (s.waiting = false ∧ s.nextInterrupt = none ∧
      ((∃ e, s.fetch = .error e ∧ s.front = .settled (s.raise e)) ∨
       (∃ t b r, s.fetch = .ok (t, b) ∧ decode s.cfg b = .error r ∧
         s.front = .settled (t.raise ⟨.illegalInstruction, b.toWord⟩)) ∨
       (∃ t b i, s.fetch = .ok (t, b) ∧ decode s.cfg b = .ok i ∧ s.front = .execute t i))) := by
  unfold State.front State.fetchDecode
  cases hw : s.waiting with
  | true => exact .inl ⟨rfl, rfl⟩
  | false =>
    refine .inr ?_
    cases hn : s.nextInterrupt with
    | some i => exact .inl ⟨i, rfl, rfl, rfl⟩
    | none =>
      refine .inr ⟨rfl, rfl, ?_⟩
      cases hf : s.fetch with
      | error e => exact .inl ⟨e, rfl, rfl⟩
      | ok tb =>
        obtain ⟨t, b⟩ := tb
        cases hd : decode s.cfg b with
        | error r => exact .inr (.inl ⟨t, b, r, rfl, hd, by simp [hd]⟩)
        | ok i => exact .inr (.inr ⟨t, b, i, rfl, hd, by simp [hd]⟩)

end Sys2Proof.Machine
end

