-- ==== Sys2Proof/Laws/Access.lean ====
section
/-!
SUPPORT. Accesses: what `locate` finds for an access that is `State.Found` in main memory, what loading there gives, and
what storing there does, as `Did` says it (20_memory.md rules R101, R108, R130); and the same of the memory-mapped registers
(60_exceptions.md rules R745 to R747).
-/

namespace Sys2Proof.Machine

/-! ## Untranslated addresses -/

theorem State.translated_eq_false {s : State} (h : s.Untranslated) : s.translated s.priv = false := by
  unfold State.translated
  rcases h with h | h | h <;> simp [h]

theorem State.translate_untranslated {s : State} (h : s.Untranslated) (t : Access) (va : Word) :
    s.translate s.priv t va = .ok (s, va.toNat) := by
  unfold State.translate
  rw [State.translated_eq_false h]
  rfl

/-! ## The bytes of an access -/

/-- The widths of accesses. -/
def IsSize (n : Nat) : Prop := n = 1 ∨ n = 2 ∨ n = 4 ∨ n = 8

/-- The physical addresses of the first `n` bytes. -/
def placed (at_ : Nat → Nat) (n : Nat) : List Nat := (List.range n).map at_

theorem placed_succ (at_ : Nat → Nat) (n : Nat) : placed at_ (n + 1) = placed at_ n ++ [at_ n] := by
  simp [placed, List.range_succ]

theorem length_placed (at_ : Nat → Nat) (n : Nat) : (placed at_ n).length = n := by simp [placed]

theorem mem_placed {at_ : Nat → Nat} {n b : Nat} : b ∈ placed at_ n ↔ ∃ k, k < n ∧ at_ k = b := by
  simp [placed]

/-- Bytes that lie together. -/
theorem addrsFrom_eq_placed {at_ : Nat → Nat} {n : Nat} (h : ∀ k, k < n → at_ k = at_ 0 + k) :
    addrsFrom (at_ 0) n = placed at_ n := by
  apply List.ext_getElem
  · simp [length_addrsFrom, length_placed]
  · intro k hk _
    have hk' : k < n := by simpa [length_addrsFrom] using hk
    rw [getElem_addrsFrom]
    simp [placed, h k hk']

theorem Memory.readAt_append (m : Memory) (as : List Nat) (b : Nat) :
    m.readAt (as ++ [b]) = m.readAt as + (m.read b).toNat * 256 ^ as.length := by
  induction as with
  | nil => simp [Memory.readAt]
  | cons a as ih =>
    simp only [List.cons_append, Memory.readAt, ih, List.length_cons, Nat.pow_succ]
    ring

theorem Memory.writeAt_append (m : Memory) (as : List Nat) (b v : Nat) :
    m.writeAt (as ++ [b]) v = (m.writeAt as v).write b (BitVec.ofNat 8 (v / 256 ^ as.length)) := by
  induction as generalizing m v with
  | nil => simp [Memory.writeAt]
  | cons a as ih =>
    simp only [List.cons_append, Memory.writeAt, ih, List.length_cons]
    rw [Nat.div_div_eq_div_mul, Nat.pow_succ']

theorem State.readAt_placed (s : State) (at_ : Nat → Nat) (n : Nat) : s.mem.readAt (placed at_ n) = s.bytesAt at_ n := by
  induction n with
  | zero => rfl
  | succ n ih => rw [placed_succ, Memory.readAt_append, ih, length_placed]; rfl

theorem State.bytesAt_lt (s : State) (at_ : Nat → Nat) (n : Nat) : s.bytesAt at_ n < 256 ^ n := by
  induction n with
  | zero => simp [State.bytesAt]
  | succ n ih =>
    have := (s.mem.read (at_ n)).isLt
    rw [State.bytesAt, Nat.pow_succ]
    have : (s.mem.read (at_ n)).toNat * 256 ^ n ≤ 255 * 256 ^ n := Nat.mul_le_mul_right _ (by omega)
    omega

/-- Reading a byte after a store. -/
theorem Memory.read_writeAt_placed (m : Memory) (at_ : Nat → Nat) (v n b : Nat) :
    (m.writeAt (placed at_ n) v).read b = (storedAt at_ v n b).getD (m.read b) := by
  induction n with
  | zero => rfl
  | succ n ih =>
    rw [placed_succ, Memory.writeAt_append, Memory.read_write, length_placed, storedAt]
    split
    · rfl
    · exact ih

theorem storedAt_isSome {at_ : Nat → Nat} {v n b : Nat} : (storedAt at_ v n b).isSome = true ↔ b ∈ placed at_ n := by
  induction n with
  | zero => simp [storedAt, placed]
  | succ n ih =>
    rw [placed_succ, List.mem_append, List.mem_singleton, ← ih, storedAt]
    split
    · simp [*]
    · simp [*]

/-! ## Finding main memory -/

/-- No memory-mapped register lies at bytes that are no device's. -/
theorem devReg_eq_none {c : Config} {pa n : Nat} (hn : 0 < n) (h : ∀ k, k < n → inDevice c (pa + k) = false) :
    devReg c pa n = none := by
  have h0 := h 0 hn
  simp only [Nat.add_zero, inDevice, Bool.or_eq_false_iff, Bool.and_eq_false_iff, decide_eq_false_iff_not] at h0
  unfold devReg
  split_ifs <;> first | rfl | omega

/-- The bytes of an access, translated one by one, with the last one apart. -/
theorem State.locateBytes_succ {s : State} (t : Access) (a : Nat) (n : Nat) (ha : a < 2 ^ s.width) :
    s.locateBytes t (BitVec.ofNat 64 a) (n + 1) =
      match s.locateBytes t (BitVec.ofNat 64 a) n with
      | .error e => .error e
      | .ok (w, pas) =>
        match w.locateOne t (BitVec.ofNat 64 (s.byteAddr a n)) 1 with
        | .error e => .error e
        | .ok (u, pa) => .ok (u, pas ++ [pa]) := by
  have hlt : a < 2 ^ 64 := by
    unfold State.width at ha
    rcases Xlen.bits_cases s.cfg.xlen with hw | hw <;> rw [hw] at ha <;> omega
  induction n generalizing s a with
  | zero =>
    have h0 : s.byteAddr a 0 = a := Nat.mod_eq_of_lt ha
    simp only [State.locateBytes, h0]
    cases s.locateOne t (BitVec.ofNat 64 a) 1 with
    | error e => rfl
    | ok p => rfl
  | succ n ih =>
    rw [State.locateBytes]
    conv_rhs => rw [State.locateBytes]
    cases h : s.locateOne t (BitVec.ofNat 64 a) 1 with
    | error e => rfl
    | ok p =>
      obtain ⟨w, pa⟩ := p
      have hc : w.cfg = s.cfg := by rw [State.lookedUp_locateOne h]
      have hw : w.width = s.width := by unfold State.width; rw [hc]
      have hnext : s.cfg.xlen.norm (BitVec.ofNat 64 a + 1) = BitVec.ofNat 64 ((a + 1) % 2 ^ s.width) := by
        apply BitVec.eq_of_toNat_eq
        rw [Xlen.norm_toNat]
        unfold State.width
        rcases Xlen.bits_cases s.cfg.xlen with hx | hx
        · rw [hx]; simp; omega
        · rw [hx]; simp
      have hbyte : w.byteAddr ((a + 1) % 2 ^ s.width) n = s.byteAddr a (n + 1) := by
        unfold State.byteAddr
        rw [hw, Nat.mod_add_mod, Nat.add_assoc, Nat.add_comm 1 n]
      have hm : (a + 1) % 2 ^ s.width < 2 ^ s.width := Nat.mod_lt _ (Nat.two_pow_pos _)
      simp only
      rw [hnext, ih _ (by rw [hw]; exact hm) (by
        unfold State.width at hm ⊢
        rcases Xlen.bits_cases s.cfg.xlen with hx | hx <;> rw [hx] at hm ⊢ <;> omega), hbyte]
      cases w.locateBytes t (BitVec.ofNat 64 ((a + 1) % 2 ^ s.width)) n with
      | error e => rfl
      | ok q =>
        obtain ⟨x, pas⟩ := q
        simp only
        cases x.locateOne t (BitVec.ofNat 64 (s.byteAddr a (n + 1))) 1 with
        | error e => rfl
        | ok r => rfl

/-- Bytes that were translated one by one are found by `locateBytes`. -/
theorem State.locateBytes_of_found {s u : State} {t : Access} {a n : Nat} {at_ : Nat → Nat} (ha : a < 2 ^ s.width)
    (h : s.FoundBytes t a at_ n u) : s.locateBytes t (BitVec.ofNat 64 a) n = .ok (u, placed at_ n) := by
  induction n generalizing u with
  | zero => cases h; rfl
  | succ n ih =>
    obtain ⟨w, hw, ht, hp⟩ := h
    have hl := ih hw
    have hpr : w.priv = s.priv := by rw [State.lookedUp_locateBytes hl]
    rw [State.locateBytes_succ t a n ha, hl]
    simp only [State.locateOne, hpr, ht, hp, if_true, placed_succ]

/-- Bytes that `locateBytes` finds were translated one by one. -/
theorem State.foundBytes_of_locateBytes {s u : State} {t : Access} {a n : Nat} {pas : List Nat} (ha : a < 2 ^ s.width)
    (h : s.locateBytes t (BitVec.ofNat 64 a) n = .ok (u, pas)) :
    pas.length = n ∧ ∀ at_ : Nat → Nat, (∀ k, k < n → at_ k = pas.getD k 0) → s.FoundBytes t a at_ n u := by
  induction n generalizing u pas with
  | zero => cases h; exact ⟨rfl, fun _ _ => rfl⟩
  | succ n ih =>
    rw [State.locateBytes_succ t a n ha] at h
    split at h
    · cases h
    rename_i w qas hl
    obtain ⟨hlen, hf⟩ := ih hl
    have hpr : w.priv = s.priv := by rw [State.lookedUp_locateBytes hl]
    unfold State.locateOne at h
    rw [hpr] at h
    cases ht : w.translate s.priv t (BitVec.ofNat 64 (s.byteAddr a n)) with
    | error e => rw [ht] at h; cases h
    | ok q =>
      obtain ⟨x, pa⟩ := q
      rw [ht] at h
      by_cases hp : x.physOk pa 1 t s.priv = true
      · simp only [hp, if_true] at h
        cases h
        refine ⟨by simp [hlen], fun at_ hat => ⟨w, hf at_ fun k hk => ?_, ?_, ?_⟩⟩
        · rw [hat k (by omega), List.getD_append _ _ _ _ (by omega)]
        all_goals
          have hn : at_ n = pa := by rw [hat n (by omega), ← hlen]; simp
          rw [hn]
        · exact ht
        · exact hp
      · simp only [hp] at h
        cases h

/-- An access whose place `locate` finds, with no byte of a device's, is found there. -/
theorem State.found_of_locate {s u : State} {t : Access} {a n : Nat} {p : Place} (hn : 0 < n) (ha : a < 2 ^ s.width)
    (h : s.locate t (BitVec.ofNat 64 a) n = .ok (u, p)) (hd : ∀ b ∈ p.addrs n, deviceAt s.cfg b = false) :
    s.Found t a n u (fun k => (p.addrs n).getD k 0) := by
  have hlt : (BitVec.ofNat 64 a).toNat = a := by
    rw [BitVec.toNat_ofNat, Nat.mod_eq_of_lt]
    unfold State.width at ha
    rcases Xlen.bits_cases s.cfg.xlen with hw | hw <;> rw [hw] at ha <;> omega
  unfold State.locate at h
  rw [hlt] at h
  by_cases hal : a % n = 0
  · rw [if_pos hal] at h
    unfold State.locateOne at h
    cases ht : s.translate s.priv t (BitVec.ofNat 64 a) with
    | error e => rw [ht] at h; cases h
    | ok q =>
      obtain ⟨x, pa⟩ := q
      rw [ht] at h
      by_cases hp : x.physOk pa n t s.priv = true
      · simp only [hp, if_true] at h
        cases h
        have hk : ∀ k, k < n → ((Place.whole pa).addrs n).getD k 0 = pa + k := fun k hk => by
          have hk' : k < (addrsFrom pa n).length := by simpa [length_addrsFrom] using hk
          simp only [Place.addrs, List.getD_eq_getElem _ _ hk', getElem_addrsFrom]
        refine ⟨?_, fun k hk' => ?_⟩
        · have h0 := hk 0 hn
          rw [Nat.add_zero] at h0
          rw [if_pos hal]
          simp only [h0]
          exact ⟨ht, hp, hk⟩
        · have := hk k hk'
          simp only at this ⊢
          rw [this]
          exact hd _ ((mem_addrsFrom _ _ _).mpr ⟨by omega, by omega⟩)
      · simp only [hp] at h
        cases h
  · rw [if_neg hal] at h
    split at h
    · cases h
    rename_i hm
    simp only [Bool.or_eq_true, Bool.not_eq_true', not_or, Bool.not_eq_true, Bool.not_eq_false] at hm
    cases hl : s.locateBytes t (BitVec.ofNat 64 a) n with
    | error e => rw [hl] at h; cases h
    | ok q =>
      obtain ⟨x, pas⟩ := q
      rw [hl] at h
      cases h
      obtain ⟨hlen, hf⟩ := State.foundBytes_of_locateBytes ha hl
      refine ⟨?_, fun k hk => ?_⟩
      · rw [if_neg hal]
        exact ⟨hm.2, hm.1, hf _ fun k _ => rfl⟩
      · refine hd _ ?_
        simp only [Place.addrs]
        rw [List.getD_eq_getElem _ _ (by omega)]
        exact List.getElem_mem _

/-- What an access that is found in main memory finds: the state after the translation, and a place of main memory with
the access's bytes. -/
theorem State.locate_of_found {s u : State} {t : Access} {a : Word} {n : Nat} {at_ : Nat → Nat} (hn : IsSize n)
    (ha : a.toNat < 2 ^ s.width) (h : s.Found t a.toNat n u at_) :
    ∃ p, s.locate t a n = .ok (u, p) ∧ s.LookedUp u ∧ p.dev u.cfg n = none ∧ p.addrs n = placed at_ n ∧
      (a.toNat % n = 0 → p = .whole (at_ 0)) ∧ ∀ b ∈ p.addrs n, onDevice u.cfg b = false := by
  have hpos : 0 < n := by rcases hn with rfl | rfl | rfl | rfl <;> omega
  have hword : BitVec.ofNat 64 a.toNat = a := by simp
  have key : ∃ p, s.locate t a n = .ok (u, p) ∧ p.addrs n = placed at_ n ∧ (a.toNat % n = 0 → p = .whole (at_ 0)) ∧
      ((∃ pa, p = .whole pa ∧ at_ 0 = pa ∧ ∀ k, k < n → at_ k = at_ 0 + k) ∨ ∃ pas, p = .bytes pas) := by
    have h1 := h.1
    unfold State.locate
    by_cases hal : a.toNat % n = 0
    · rw [if_pos hal, hword] at h1
      refine ⟨.whole (at_ 0), ?_, addrsFrom_eq_placed h1.2.2, fun _ => rfl, .inl ⟨_, rfl, rfl, h1.2.2⟩⟩
      rw [if_pos hal, State.locateOne, h1.1]
      simp only [h1.2.1, if_true]
    · rw [if_neg hal] at h1
      have hb := State.locateBytes_of_found ha h1.2.2
      rw [hword] at hb
      refine ⟨.bytes (placed at_ n), ?_, rfl, fun e => absurd e hal, .inr ⟨_, rfl⟩⟩
      rw [if_neg hal, h1.1, h1.2.1, hb]
      rfl
  obtain ⟨p, hp, hb, hw, hk⟩ := key
  have hl := State.lookedUp_locate hp
  have hc : u.cfg = s.cfg := by rw [hl]
  have hd : ∀ k, k < n → inDevice s.cfg (at_ k) = false ∧ onDevice s.cfg (at_ k) = false :=
    fun k hk => by simpa [deviceAt] using h.2 k hk
  refine ⟨p, hp, hl, ?_, hb, hw, fun b h' => ?_⟩
  · rw [hc]
    rcases hk with ⟨pa, rfl, rfl, hk⟩ | ⟨pas, rfl⟩
    · exact devReg_eq_none hpos fun k h' => hk k h' ▸ (hd k h').1
    · rfl
  · rw [hb] at h'
    obtain ⟨k, hk, rfl⟩ := mem_placed.mp h'
    rw [hc]
    exact (hd k hk).2

/-- An untranslated access that passes the checks and is to no device is found where its address says, and leaves the
state. -/
theorem State.found_untranslated {s : State} {t : Access} {a n : Nat} (hu : s.Untranslated) (ha : a < 2 ^ s.width)
    (hal : a % n = 0) (hok : s.physOk a n t s.priv = true) (hd : ∀ k, k < n → deviceAt s.cfg (a + k) = false) :
    s.Found t a n s (fun k => a + k) := by
  have hlt : a < 2 ^ 64 := by
    unfold State.width at ha
    rcases Xlen.bits_cases s.cfg.xlen with hw | hw <;> rw [hw] at ha <;> omega
  refine ⟨?_, hd⟩
  rw [if_pos hal]
  refine ⟨?_, hok, fun k _ => by simp⟩
  rw [State.translate_untranslated hu, BitVec.toNat_ofNat, Nat.mod_eq_of_lt hlt]
  rfl

/-- The same for a misaligned access, byte by byte. -/
theorem State.found_untranslated_bytes {s : State} {t : Access} {a n : Nat} (hu : s.Untranslated) (hal : a % n ≠ 0)
    (hm : s.cfg.misalignedOk = true) (ht : t.atomic = false)
    (hok : ∀ k, k < n → s.physOk (s.byteAddr a k) 1 t s.priv = true)
    (hd : ∀ k, k < n → deviceAt s.cfg (s.byteAddr a k) = false) : s.Found t a n s (s.byteAddr a) := by
  refine ⟨?_, hd⟩
  rw [if_neg hal]
  refine ⟨hm, ht, ?_⟩
  have key : ∀ k, k ≤ n → s.FoundBytes t a (s.byteAddr a) k s := by
    intro k
    induction k with
    | zero => intro _; rfl
    | succ k ih =>
      intro hk
      refine ⟨s, ih (by omega), ?_, hok k hk⟩
      have hlt : s.byteAddr a k < 2 ^ 64 := by
        have : s.byteAddr a k < 2 ^ s.width := Nat.mod_lt _ (Nat.two_pow_pos _)
        unfold State.width at this
        rcases Xlen.bits_cases s.cfg.xlen with hw | hw <;> rw [hw] at this <;> omega
      rw [State.translate_untranslated hu, BitVec.toNat_ofNat, Nat.mod_eq_of_lt hlt]
  exact key n le_rfl

/-! ## Reading -/

/-- The value at a place of main memory. -/
theorem State.readPlace_toNat {s : State} {p : Place} {at_ : Nat → Nat} {n : Nat} (hn : IsSize n)
    (hd : p.dev s.cfg n = none) (hp : p.addrs n = placed at_ n) (ho : ∀ b ∈ p.addrs n, onDevice s.cfg b = false) :
    (s.readPlace p n).toNat = s.bytesAt at_ n := by
  unfold State.readPlace
  rw [hd, State.readBytes_eq ho, hp, State.readAt_placed, BitVec.toNat_ofNat]
  refine Nat.mod_eq_of_lt (Nat.lt_of_lt_of_le (State.bytesAt_lt s at_ n) ?_)
  rcases hn with rfl | rfl | rfl | rfl <;> norm_num

/-- Loading where the access is found: the state after the translation, and the value of the bytes. -/
theorem State.memRead_of_found {s u : State} {a : Word} {n : Nat} {at_ : Nat → Nat} (hn : IsSize n)
    (ha : a.toNat < 2 ^ s.width) (h : s.Found .load a.toNat n u at_) :
    s.LookedUp u ∧ ∃ v, s.memRead a n = .ok (u, v) ∧ v.toNat = u.bytesAt at_ n := by
  obtain ⟨p, hp, hl, hd, hb, _, ho⟩ := State.locate_of_found hn ha h
  refine ⟨hl, u.readPlace p n, ?_, State.readPlace_toNat hn hd hb ho⟩
  unfold State.memRead
  rw [hp]
  simp only [State.readDone_eq ho]

/-! ## Writing -/

/-- Noting the bytes that memory holds leaves what a fetch sees, and a byte noted hides what memory becomes. -/
theorem cellFind_staleNote (m : Memory) (as : List Nat) (st : List Host.Cell) (b : Nat) :
    cellFind b (staleNote m as st) =
      match cellFind b st with
      | some v => some v
      | none => if b ∈ as then some (m.read b) else none := by
  induction as generalizing st with
  | nil => simp only [staleNote]; cases cellFind b st <;> simp
  | cons a as ih =>
    simp only [staleNote]
    rw [ih]
    by_cases ha : (cellFind a st).isSome = true
    · rw [if_pos ha]
      cases hb : cellFind b st with
      | some v => rfl
      | none =>
        have : b ≠ a := by rintro rfl; rw [hb] at ha; cases ha
        simp [this]
    · rw [if_neg ha, cellFind_cellPut]
      have hn : cellFind a st = none := by simpa using ha
      by_cases hba : b = a
      · subst hba; simp [hn]
      · simp only [hba, if_false, List.mem_cons, false_or]

theorem keepReservation_some {r : Option Reservation} {as : List Nat} {v : Reservation} (h : r = some v) :
    keepReservation r as = if ∃ a ∈ as, v.addr ≤ a ∧ a < v.addr + v.size then none else some v := by
  subst h
  unfold keepReservation
  simp only [List.any_eq_true, Bool.and_eq_true, decide_eq_true_eq]

/-- Storing to a place of main memory and going on, with the x register and the reservation that the instruction sets
besides. -/
theorem State.did_store {s : State} {at_ : Nat → Nat} {n : Nat} (v : Nat) {t : State} {e : Effect}
    (hst : e.stored = storedAt at_ v n) (hf : e.f = none) (hfl : e.flags = 0) (hd : t.free = s.free + e.draws)
    (hmem : t.mem = s.mem.writeAt (placed at_ n) v)
    (hstale : t.staleFetch = if s.cfg.fetchStale then staleNote s.mem (placed at_ n) s.staleFetch else s.staleFetch)
    (hres : match e.reservation with
      | some r => t.reservation = r
      | none => t.reservation = keepReservation s.reservation (placed at_ n))
    (rest : t = { s with x := t.x, mem := t.mem, staleFetch := t.staleFetch, reservation := t.reservation,
                         free := t.free, pc := t.pc, instret := t.instret })
    (xs : ∀ r, t.ux r = if r ≠ 0 ∧ e.x.map Prod.fst = some r then (e.x.map Prod.snd).getD 0 else s.ux r)
    (next : t.pc.toNat = e.next) (count : t.instret = s.instret + 1) : Did s t e := by
  have htf : t.f = s.f := by rw [rest]
  have htfc : t.fcsr = s.fcsr := by rw [rest]
  have htc : t.cfg = s.cfg := by rw [rest]
  have hbreaks : ∀ w : Reservation, e.Breaks w ↔ ∃ b ∈ placed at_ n, w.addr ≤ b ∧ b < w.addr + w.size := by
    intro w
    unfold Effect.Breaks
    simp only [hst, storedAt_isSome]
  refine
    { xs := xs, next := next, count := count, draws := hd
      fs := fun r => by rw [hf]; simp only [Option.map_none]; exact State.getF_congr htf htc r
      flags := by rw [hfl, htfc]; simp
      bytes := fun b => by rw [hst, hmem]; exact Memory.read_writeAt_placed _ _ _ _ b
      fetched := ?_
      fetchedNow := fun h => by rw [hstale, h]; rfl
      setsReservation := fun r h => by rw [h] at hres; exact hres
      breaksReservation := ?_
      keepsReservation := ?_
      rest := ?_ }
  · intro h b
    unfold State.fetchByte
    rw [hstale, h, hmem]
    simp only [if_true]
    rw [cellFind_staleNote]
    cases cellFind b s.staleFetch with
    | some v => rfl
    | none =>
      by_cases hb : b ∈ placed at_ n
      · simp [hb]
      · simp [hb, Memory.read_writeAt_other _ _ _ _ hb]
  · intro h w hw hb
    rw [h] at hres
    simp only at hres
    rw [hres, keepReservation_some hw, if_pos ((hbreaks w).mp hb)]
  · intro h hk
    rw [h] at hres
    simp only at hres
    rw [hres]
    cases hr : s.reservation with
    | none => rfl
    | some w =>
      rw [keepReservation_some rfl, if_neg (fun hb => hk w hr ((hbreaks w).mpr hb))]
  · rw [htf, htfc]
    exact rest

/-- What `memWrite` does where the access is found. -/
theorem State.memWrite_of_found {s u : State} {a : Word} {n : Nat} {at_ : Nat → Nat} (hn : IsSize n)
    (ha : a.toNat < 2 ^ s.width) (h : s.Found .store a.toNat n u at_) (v : Word) :
    s.LookedUp u ∧ s.memWrite a n v = .ok (u.storeBytes (placed at_ n) v.toNat) ∧
      ∀ b ∈ placed at_ n, onDevice u.cfg b = false := by
  obtain ⟨p, hp, hl, hd, hb, _, ho⟩ := State.locate_of_found hn ha h
  refine ⟨hl, ?_, hb ▸ ho⟩
  unfold State.memWrite
  rw [hp]
  simp only
  unfold State.writePlace
  rw [hd, hb]

theorem State.LookedUp.fromPc {s u : State} (h : s.LookedUp u) (d : Int) : u.fromPc d = s.fromPc d := by rw [h]; rfl

/-- A plain store, as a claim of `Stores`. -/
theorem stores_of_storeTo {i : Instr} {s : State} {a v : Word} {n len m : Nat} (hn : IsSize n)
    (h : exec i s = s.storeTo a n v (BitVec.ofNat 64 len)) (ha : a.toNat < 2 ^ s.width) (hv : v.toNat = m) :
    Stores i s len n a.toNat m := by
  subst hv
  intro u at_ hr
  obtain ⟨hl, hw, ho⟩ := State.memWrite_of_found hn ha hr v
  refine ⟨(u.storeBytes (placed at_ n) v.toNat).retire (BitVec.ofNat 64 len), ?_, ?_⟩
  · rw [h]
    unfold State.storeTo
    rw [hw]
    rfl
  · exact State.did_store v.toNat rfl rfl rfl rfl (Memory.writeMain_eq _ ho) rfl rfl rfl
      (fun r => by simp [Effect.nothing]; rfl) (hl.fromPc len ▸ State.pcPlus_toNat u len) rfl

/-- A load into an x register, as a claim of `LoadsX`. -/
theorem loadsX_of_loadX {i : Instr} {s : State} {rd : Reg} {a : Word} {n len : Nat} {ext : Word → Word}
    {value : Nat → Nat} (hn : IsSize n) (h : exec i s = s.loadX rd a n ext (BitVec.ofNat 64 len))
    (ha : a.toNat < 2 ^ s.width)
    (hv : ∀ v : Word, v.toNat < 256 ^ n → (ext v).toNat % 2 ^ s.width = value v.toNat) :
    LoadsX i s len n a.toNat rd value := by
  intro u at_ hr
  obtain ⟨hl, v, hv', hb⟩ := State.memRead_of_found hn ha hr
  have hval : (ext v).toNat % 2 ^ u.width = value (u.bytesAt at_ n) := by
    have hw : u.width = s.width := by rw [hl]; rfl
    rw [hw, hv v (hb ▸ State.bytesAt_lt u at_ n), hb]
  refine ⟨(u.setX rd (ext v)).retire (BitVec.ofNat 64 len), ?_, ?_⟩
  · rw [h]
    unfold State.loadX
    rw [hv']
    rfl
  · have hd := State.did_writeX u rd (ext v) len
    rw [hval, hl.fromPc len] at hd
    exact hd

/-! ## The memory-mapped registers -/

/-- Which register an access names, where the registers are apart. -/
theorem devReg_apart {c : Config} (h : RegistersApart c) :
    devReg c c.mtimeAddr 8 = some .mtime ∧ devReg c c.mtimeAddr 4 = some .mtimeLo ∧
    devReg c (c.mtimeAddr + 4) 4 = some .mtimeHi ∧ devReg c c.mtimecmpAddr 8 = some .mtimecmp ∧
    devReg c c.mtimecmpAddr 4 = some .mtimecmpLo ∧ devReg c (c.mtimecmpAddr + 4) 4 = some .mtimecmpHi ∧
    devReg c c.msipAddr 4 = some .msip := by
  obtain ⟨h1, h2, h3, h4, h5, h6⟩ := h
  unfold devReg
  refine ⟨?_, ?_, ?_, ?_, ?_, ?_, ?_⟩
  · simp
  · simp
  · simp
  · rw [if_neg (by omega), if_neg (by omega), if_neg (by omega), if_pos (by omega)]
  · rw [if_neg (by omega), if_neg (by omega), if_neg (by omega), if_neg (by omega), if_pos (by omega)]
  · rw [if_neg (by omega), if_neg (by omega), if_neg (by omega), if_neg (by omega), if_neg (by omega), if_pos (by omega)]
  · rw [if_neg (by omega), if_neg (by omega), if_neg (by omega), if_neg (by omega), if_neg (by omega), if_neg (by omega),
      if_pos (by omega)]

/-- An access that names a register exactly is to bytes of registers. -/
theorem inDevice_of_devReg {c : Config} {pa n : Nat} {d : DevReg} (h : devReg c pa n = some d) :
    0 < n ∧ inDevice c pa = true := by
  unfold devReg at h
  unfold inDevice
  simp only [Bool.or_eq_true, Bool.and_eq_true, decide_eq_true_eq]
  split at h
  · omega
  split at h
  · omega
  split at h
  · omega
  split at h
  · omega
  split at h
  · omega
  split at h
  · omega
  split at h
  · omega
  · cases h

/-- An aligned access that names a register exactly, and that translation and PMP let through, is located there. -/
theorem State.locate_register {s u : State} {t : Access} {a : Word} {n pa : Nat} {d : DevReg} (hal : a.toNat % n = 0)
    (ht : s.translate s.priv t a = .ok (u, pa)) (hd : devReg s.cfg pa n = some d) (hp : u.pmpOk pa n t s.priv = true)
    (hk : (t.reads || t.writes) = true) : s.locate t a n = .ok (u, .whole pa) ∧ s.LookedUp u ∧ devReg u.cfg pa n = some d := by
  have hl : s.LookedUp u := State.lookedUp_translate ht
  have hc : u.cfg = s.cfg := by rw [hl]
  obtain ⟨hn, hi⟩ := inDevice_of_devReg hd
  have hm : mapOk u.cfg t pa n = true := by
    unfold mapOk
    rw [hc, if_pos (List.any_eq_true.mpr ⟨pa, (mem_addrsFrom _ _ _).mpr ⟨le_rfl, by omega⟩, hi⟩), hd, hk]
    rfl
  refine ⟨?_, hl, by rw [hc]; exact hd⟩
  unfold State.locate State.locateOne State.physOk
  rw [if_pos hal, ht]
  simp only [hp, hm, Bool.and_self, if_true]

/-- Loading a register: the state after the translation, and what the register reads as. -/
theorem State.memRead_register {s u : State} {a : Word} {n pa : Nat} {d : DevReg} (hal : a.toNat % n = 0)
    (ht : s.translate s.priv .load a = .ok (u, pa)) (hd : devReg s.cfg pa n = some d)
    (hp : u.pmpOk pa n .load s.priv = true) : s.LookedUp u ∧ s.memRead a n = .ok (u, u.devRead d) := by
  obtain ⟨h, hl, hd'⟩ := State.locate_register hal ht hd hp rfl
  refine ⟨hl, ?_⟩
  unfold State.memRead
  rw [h]
  simp only [State.readPlace, State.readDone, Place.dev, hd', Option.isNone_some, Bool.false_and, Bool.false_eq_true, if_false]

/-- Storing to a register: what the register's write does, and a reservation on its bytes is gone. -/
theorem State.memWrite_register {s u : State} {a : Word} {n pa : Nat} {d : DevReg} (hal : a.toNat % n = 0)
    (ht : s.translate s.priv .store a = .ok (u, pa)) (hd : devReg s.cfg pa n = some d)
    (hp : u.pmpOk pa n .store s.priv = true) (v : Word) :
    s.LookedUp u ∧ s.memWrite a n v =
      .ok { u.devWrite d v with reservation := keepReservation u.reservation (addrsFrom pa n) } := by
  obtain ⟨h, hl, hd'⟩ := State.locate_register hal ht hd hp rfl
  refine ⟨hl, ?_⟩
  unfold State.memWrite
  rw [h]
  simp only [State.writePlace, Place.dev, hd', Place.addrs]

end Sys2Proof.Machine
end

