-- ==== Sys2Proof/Laws/Encoding.lean ====
section
/-!
SUPPORT. What each field of an encoded word reads as: one lemma for each format and field, so that the decoding of an
encoding is rewriting.
-/

namespace Sys2Proof

set_option Elab.async false

/-- Two bit vectors are equal when their bits are. -/
theorem eq_of_bits {n : Nat} {a b : BitVec n} (h : ∀ i, i < n → a.getLsbD i = b.getLsbD i) : a = b :=
  BitVec.eq_of_getLsbD_eq fun i hi => h i hi

/-! ## 32-bit formats -/

@[simp] theorem fOpcode_encR (f7 : BitVec 7) (rs2 rs1 : Reg) (f3 : BitVec 3) (rd : Reg) (op : BitVec 7) :
    fOpcode (encR f7 rs2 rs1 f3 rd op) = op := by
  unfold fOpcode encR
  refine eq_of_bits fun i hi => ?_
  interval_cases i <;> (simp only [BitVec.getLsbD_extractLsb', BitVec.getLsbD_append]; simp)

@[simp] theorem fRd_encR (f7 : BitVec 7) (rs2 rs1 : Reg) (f3 : BitVec 3) (rd : Reg) (op : BitVec 7) :
    fRd (encR f7 rs2 rs1 f3 rd op) = rd := by
  unfold fRd encR
  refine eq_of_bits fun i hi => ?_
  interval_cases i <;> (simp only [BitVec.getLsbD_extractLsb', BitVec.getLsbD_append]; simp)

@[simp] theorem fFunct3_encR (f7 : BitVec 7) (rs2 rs1 : Reg) (f3 : BitVec 3) (rd : Reg) (op : BitVec 7) :
    fFunct3 (encR f7 rs2 rs1 f3 rd op) = f3 := by
  unfold fFunct3 encR
  refine eq_of_bits fun i hi => ?_
  interval_cases i <;> (simp only [BitVec.getLsbD_extractLsb', BitVec.getLsbD_append]; simp)

@[simp] theorem fRs1_encR (f7 : BitVec 7) (rs2 rs1 : Reg) (f3 : BitVec 3) (rd : Reg) (op : BitVec 7) :
    fRs1 (encR f7 rs2 rs1 f3 rd op) = rs1 := by
  unfold fRs1 encR
  refine eq_of_bits fun i hi => ?_
  interval_cases i <;> (simp only [BitVec.getLsbD_extractLsb', BitVec.getLsbD_append]; simp)

@[simp] theorem fRs2_encR (f7 : BitVec 7) (rs2 rs1 : Reg) (f3 : BitVec 3) (rd : Reg) (op : BitVec 7) :
    fRs2 (encR f7 rs2 rs1 f3 rd op) = rs2 := by
  unfold fRs2 encR
  refine eq_of_bits fun i hi => ?_
  interval_cases i <;> (simp only [BitVec.getLsbD_extractLsb', BitVec.getLsbD_append]; simp)

@[simp] theorem fFunct7_encR (f7 : BitVec 7) (rs2 rs1 : Reg) (f3 : BitVec 3) (rd : Reg) (op : BitVec 7) :
    fFunct7 (encR f7 rs2 rs1 f3 rd op) = f7 := by
  unfold fFunct7 encR
  refine eq_of_bits fun i hi => ?_
  interval_cases i <;> (simp only [BitVec.getLsbD_extractLsb', BitVec.getLsbD_append]; simp)

@[simp] theorem fOpcode_encI (imm : BitVec 12) (rs1 : Reg) (f3 : BitVec 3) (rd : Reg) (op : BitVec 7) :
    fOpcode (encI imm rs1 f3 rd op) = op := by
  unfold fOpcode encI
  refine eq_of_bits fun i hi => ?_
  interval_cases i <;> (simp only [BitVec.getLsbD_extractLsb', BitVec.getLsbD_append]; simp)

@[simp] theorem fRd_encI (imm : BitVec 12) (rs1 : Reg) (f3 : BitVec 3) (rd : Reg) (op : BitVec 7) :
    fRd (encI imm rs1 f3 rd op) = rd := by
  unfold fRd encI
  refine eq_of_bits fun i hi => ?_
  interval_cases i <;> (simp only [BitVec.getLsbD_extractLsb', BitVec.getLsbD_append]; simp)

@[simp] theorem fFunct3_encI (imm : BitVec 12) (rs1 : Reg) (f3 : BitVec 3) (rd : Reg) (op : BitVec 7) :
    fFunct3 (encI imm rs1 f3 rd op) = f3 := by
  unfold fFunct3 encI
  refine eq_of_bits fun i hi => ?_
  interval_cases i <;> (simp only [BitVec.getLsbD_extractLsb', BitVec.getLsbD_append]; simp)

@[simp] theorem fRs1_encI (imm : BitVec 12) (rs1 : Reg) (f3 : BitVec 3) (rd : Reg) (op : BitVec 7) :
    fRs1 (encI imm rs1 f3 rd op) = rs1 := by
  unfold fRs1 encI
  refine eq_of_bits fun i hi => ?_
  interval_cases i <;> (simp only [BitVec.getLsbD_extractLsb', BitVec.getLsbD_append]; simp)

@[simp] theorem fImmI_encI (imm : BitVec 12) (rs1 : Reg) (f3 : BitVec 3) (rd : Reg) (op : BitVec 7) :
    fImmI (encI imm rs1 f3 rd op) = imm := by
  unfold fImmI encI
  refine eq_of_bits fun i hi => ?_
  interval_cases i <;> (simp only [BitVec.getLsbD_extractLsb', BitVec.getLsbD_append]; simp)

@[simp] theorem fPred_encI (imm : BitVec 12) (rs1 : Reg) (f3 : BitVec 3) (rd : Reg) (op : BitVec 7) :
    fPred (encI imm rs1 f3 rd op) = imm.extractLsb' 4 4 := by
  unfold fPred encI
  refine eq_of_bits fun i hi => ?_
  interval_cases i <;> (simp only [BitVec.getLsbD_extractLsb', BitVec.getLsbD_append]; simp)

@[simp] theorem fSucc_encI (imm : BitVec 12) (rs1 : Reg) (f3 : BitVec 3) (rd : Reg) (op : BitVec 7) :
    fSucc (encI imm rs1 f3 rd op) = imm.extractLsb' 0 4 := by
  unfold fSucc encI
  refine eq_of_bits fun i hi => ?_
  interval_cases i <;> (simp only [BitVec.getLsbD_extractLsb', BitVec.getLsbD_append]; simp)

@[simp] theorem fFunct7_encI (imm : BitVec 12) (rs1 : Reg) (f3 : BitVec 3) (rd : Reg) (op : BitVec 7) :
    fFunct7 (encI imm rs1 f3 rd op) = imm.extractLsb' 5 7 := by
  unfold fFunct7 encI
  refine eq_of_bits fun i hi => ?_
  interval_cases i <;> (simp only [BitVec.getLsbD_extractLsb', BitVec.getLsbD_append]; simp)

@[simp] theorem bits_28_4_encI (imm : BitVec 12) (rs1 : Reg) (f3 : BitVec 3) (rd : Reg) (op : BitVec 7) :
    (encI imm rs1 f3 rd op).extractLsb' 28 4 = imm.extractLsb' 8 4 := by
  unfold encI
  refine eq_of_bits fun i hi => ?_
  interval_cases i <;> (simp only [BitVec.getLsbD_extractLsb', BitVec.getLsbD_append]; simp)

@[simp] theorem fOpcode_encS (imm : BitVec 12) (rs2 rs1 : Reg) (f3 : BitVec 3) (op : BitVec 7) :
    fOpcode (encS imm rs2 rs1 f3 op) = op := by
  unfold fOpcode encS
  refine eq_of_bits fun i hi => ?_
  interval_cases i <;> (simp only [BitVec.getLsbD_extractLsb', BitVec.getLsbD_append]; simp)

@[simp] theorem fFunct3_encS (imm : BitVec 12) (rs2 rs1 : Reg) (f3 : BitVec 3) (op : BitVec 7) :
    fFunct3 (encS imm rs2 rs1 f3 op) = f3 := by
  unfold fFunct3 encS
  refine eq_of_bits fun i hi => ?_
  interval_cases i <;> (simp only [BitVec.getLsbD_extractLsb', BitVec.getLsbD_append]; simp)

@[simp] theorem fRs1_encS (imm : BitVec 12) (rs2 rs1 : Reg) (f3 : BitVec 3) (op : BitVec 7) :
    fRs1 (encS imm rs2 rs1 f3 op) = rs1 := by
  unfold fRs1 encS
  refine eq_of_bits fun i hi => ?_
  interval_cases i <;> (simp only [BitVec.getLsbD_extractLsb', BitVec.getLsbD_append]; simp)

@[simp] theorem fRs2_encS (imm : BitVec 12) (rs2 rs1 : Reg) (f3 : BitVec 3) (op : BitVec 7) :
    fRs2 (encS imm rs2 rs1 f3 op) = rs2 := by
  unfold fRs2 encS
  refine eq_of_bits fun i hi => ?_
  interval_cases i <;> (simp only [BitVec.getLsbD_extractLsb', BitVec.getLsbD_append]; simp)

@[simp] theorem fImmS_encS (imm : BitVec 12) (rs2 rs1 : Reg) (f3 : BitVec 3) (op : BitVec 7) :
    fImmS (encS imm rs2 rs1 f3 op) = imm := by
  unfold fImmS encS
  refine eq_of_bits fun i hi => ?_
  interval_cases i <;> (simp only [BitVec.getLsbD_extractLsb', BitVec.getLsbD_append]; simp)

@[simp] theorem fOpcode_encB (off : BitVec 12) (rs2 rs1 : Reg) (f3 : BitVec 3) (op : BitVec 7) :
    fOpcode (encB off rs2 rs1 f3 op) = op := by
  unfold fOpcode encB
  refine eq_of_bits fun i hi => ?_
  interval_cases i <;> (simp only [BitVec.getLsbD_extractLsb', BitVec.getLsbD_append]; simp)

@[simp] theorem fFunct3_encB (off : BitVec 12) (rs2 rs1 : Reg) (f3 : BitVec 3) (op : BitVec 7) :
    fFunct3 (encB off rs2 rs1 f3 op) = f3 := by
  unfold fFunct3 encB
  refine eq_of_bits fun i hi => ?_
  interval_cases i <;> (simp only [BitVec.getLsbD_extractLsb', BitVec.getLsbD_append]; simp)

@[simp] theorem fRs1_encB (off : BitVec 12) (rs2 rs1 : Reg) (f3 : BitVec 3) (op : BitVec 7) :
    fRs1 (encB off rs2 rs1 f3 op) = rs1 := by
  unfold fRs1 encB
  refine eq_of_bits fun i hi => ?_
  interval_cases i <;> (simp only [BitVec.getLsbD_extractLsb', BitVec.getLsbD_append]; simp)

@[simp] theorem fRs2_encB (off : BitVec 12) (rs2 rs1 : Reg) (f3 : BitVec 3) (op : BitVec 7) :
    fRs2 (encB off rs2 rs1 f3 op) = rs2 := by
  unfold fRs2 encB
  refine eq_of_bits fun i hi => ?_
  interval_cases i <;> (simp only [BitVec.getLsbD_extractLsb', BitVec.getLsbD_append]; simp)

@[simp] theorem fOffB_encB (off : BitVec 12) (rs2 rs1 : Reg) (f3 : BitVec 3) (op : BitVec 7) :
    fOffB (encB off rs2 rs1 f3 op) = off := by
  unfold fOffB encB
  refine eq_of_bits fun i hi => ?_
  interval_cases i <;> (simp only [BitVec.getLsbD_extractLsb', BitVec.getLsbD_append]; simp)

@[simp] theorem fOpcode_encU (imm : BitVec 20) (rd : Reg) (op : BitVec 7) :
    fOpcode (encU imm rd op) = op := by
  unfold fOpcode encU
  refine eq_of_bits fun i hi => ?_
  interval_cases i <;> (simp only [BitVec.getLsbD_extractLsb', BitVec.getLsbD_append]; simp)

@[simp] theorem fRd_encU (imm : BitVec 20) (rd : Reg) (op : BitVec 7) :
    fRd (encU imm rd op) = rd := by
  unfold fRd encU
  refine eq_of_bits fun i hi => ?_
  interval_cases i <;> (simp only [BitVec.getLsbD_extractLsb', BitVec.getLsbD_append]; simp)

@[simp] theorem fImmU_encU (imm : BitVec 20) (rd : Reg) (op : BitVec 7) :
    fImmU (encU imm rd op) = imm := by
  unfold fImmU encU
  refine eq_of_bits fun i hi => ?_
  interval_cases i <;> (simp only [BitVec.getLsbD_extractLsb', BitVec.getLsbD_append]; simp)

@[simp] theorem fOpcode_encJ (off : BitVec 20) (rd : Reg) (op : BitVec 7) :
    fOpcode (encJ off rd op) = op := by
  unfold fOpcode encJ
  refine eq_of_bits fun i hi => ?_
  interval_cases i <;> (simp only [BitVec.getLsbD_extractLsb', BitVec.getLsbD_append]; simp)

@[simp] theorem fRd_encJ (off : BitVec 20) (rd : Reg) (op : BitVec 7) :
    fRd (encJ off rd op) = rd := by
  unfold fRd encJ
  refine eq_of_bits fun i hi => ?_
  interval_cases i <;> (simp only [BitVec.getLsbD_extractLsb', BitVec.getLsbD_append]; simp)

@[simp] theorem fOffJ_encJ (off : BitVec 20) (rd : Reg) (op : BitVec 7) :
    fOffJ (encJ off rd op) = off := by
  unfold fOffJ encJ
  refine eq_of_bits fun i hi => ?_
  interval_cases i <;> (simp only [BitVec.getLsbD_extractLsb', BitVec.getLsbD_append]; simp)

@[simp] theorem fOpcode_encSh (f6 shamt : BitVec 6) (rs1 : Reg) (f3 : BitVec 3) (rd : Reg) (op : BitVec 7) :
    fOpcode (encSh f6 shamt rs1 f3 rd op) = op := by
  unfold fOpcode encSh
  refine eq_of_bits fun i hi => ?_
  interval_cases i <;> (simp only [BitVec.getLsbD_extractLsb', BitVec.getLsbD_append]; simp)

@[simp] theorem fRd_encSh (f6 shamt : BitVec 6) (rs1 : Reg) (f3 : BitVec 3) (rd : Reg) (op : BitVec 7) :
    fRd (encSh f6 shamt rs1 f3 rd op) = rd := by
  unfold fRd encSh
  refine eq_of_bits fun i hi => ?_
  interval_cases i <;> (simp only [BitVec.getLsbD_extractLsb', BitVec.getLsbD_append]; simp)

@[simp] theorem fFunct3_encSh (f6 shamt : BitVec 6) (rs1 : Reg) (f3 : BitVec 3) (rd : Reg) (op : BitVec 7) :
    fFunct3 (encSh f6 shamt rs1 f3 rd op) = f3 := by
  unfold fFunct3 encSh
  refine eq_of_bits fun i hi => ?_
  interval_cases i <;> (simp only [BitVec.getLsbD_extractLsb', BitVec.getLsbD_append]; simp)

@[simp] theorem fRs1_encSh (f6 shamt : BitVec 6) (rs1 : Reg) (f3 : BitVec 3) (rd : Reg) (op : BitVec 7) :
    fRs1 (encSh f6 shamt rs1 f3 rd op) = rs1 := by
  unfold fRs1 encSh
  refine eq_of_bits fun i hi => ?_
  interval_cases i <;> (simp only [BitVec.getLsbD_extractLsb', BitVec.getLsbD_append]; simp)

@[simp] theorem fShamt_encSh (f6 shamt : BitVec 6) (rs1 : Reg) (f3 : BitVec 3) (rd : Reg) (op : BitVec 7) :
    fShamt (encSh f6 shamt rs1 f3 rd op) = shamt := by
  unfold fShamt encSh
  refine eq_of_bits fun i hi => ?_
  interval_cases i <;> (simp only [BitVec.getLsbD_extractLsb', BitVec.getLsbD_append]; simp)

@[simp] theorem fFunct6_encSh (f6 shamt : BitVec 6) (rs1 : Reg) (f3 : BitVec 3) (rd : Reg) (op : BitVec 7) :
    fFunct6 (encSh f6 shamt rs1 f3 rd op) = f6 := by
  unfold fFunct6 encSh
  refine eq_of_bits fun i hi => ?_
  interval_cases i <;> (simp only [BitVec.getLsbD_extractLsb', BitVec.getLsbD_append]; simp)

@[simp] theorem fOpcode_encA (f5 : BitVec 5) (aq rl : Bool) (rs2 rs1 : Reg) (f3 : BitVec 3) (rd : Reg) :
    fOpcode (encA f5 aq rl rs2 rs1 f3 rd) = 0b0101111#7 := by
  unfold fOpcode encA
  refine eq_of_bits fun i hi => ?_
  interval_cases i <;> (simp only [BitVec.getLsbD_extractLsb', BitVec.getLsbD_append]; simp)

@[simp] theorem fRd_encA (f5 : BitVec 5) (aq rl : Bool) (rs2 rs1 : Reg) (f3 : BitVec 3) (rd : Reg) :
    fRd (encA f5 aq rl rs2 rs1 f3 rd) = rd := by
  unfold fRd encA
  refine eq_of_bits fun i hi => ?_
  interval_cases i <;> (simp only [BitVec.getLsbD_extractLsb', BitVec.getLsbD_append]; simp)

@[simp] theorem fFunct3_encA (f5 : BitVec 5) (aq rl : Bool) (rs2 rs1 : Reg) (f3 : BitVec 3) (rd : Reg) :
    fFunct3 (encA f5 aq rl rs2 rs1 f3 rd) = f3 := by
  unfold fFunct3 encA
  refine eq_of_bits fun i hi => ?_
  interval_cases i <;> (simp only [BitVec.getLsbD_extractLsb', BitVec.getLsbD_append]; simp)

@[simp] theorem fRs1_encA (f5 : BitVec 5) (aq rl : Bool) (rs2 rs1 : Reg) (f3 : BitVec 3) (rd : Reg) :
    fRs1 (encA f5 aq rl rs2 rs1 f3 rd) = rs1 := by
  unfold fRs1 encA
  refine eq_of_bits fun i hi => ?_
  interval_cases i <;> (simp only [BitVec.getLsbD_extractLsb', BitVec.getLsbD_append]; simp)

@[simp] theorem fRs2_encA (f5 : BitVec 5) (aq rl : Bool) (rs2 rs1 : Reg) (f3 : BitVec 3) (rd : Reg) :
    fRs2 (encA f5 aq rl rs2 rs1 f3 rd) = rs2 := by
  unfold fRs2 encA
  refine eq_of_bits fun i hi => ?_
  interval_cases i <;> (simp only [BitVec.getLsbD_extractLsb', BitVec.getLsbD_append]; simp)

@[simp] theorem fFunct5_encA (f5 : BitVec 5) (aq rl : Bool) (rs2 rs1 : Reg) (f3 : BitVec 3) (rd : Reg) :
    fFunct5 (encA f5 aq rl rs2 rs1 f3 rd) = f5 := by
  unfold fFunct5 encA
  refine eq_of_bits fun i hi => ?_
  interval_cases i <;> (simp only [BitVec.getLsbD_extractLsb', BitVec.getLsbD_append]; simp)

@[simp] theorem fAq_encA (f5 : BitVec 5) (aq rl : Bool) (rs2 rs1 : Reg) (f3 : BitVec 3) (rd : Reg) :
    fAq (encA f5 aq rl rs2 rs1 f3 rd) = aq := by
  unfold fAq encA
  simp only [BitVec.getLsbD_append]
  simp

@[simp] theorem fRl_encA (f5 : BitVec 5) (aq rl : Bool) (rs2 rs1 : Reg) (f3 : BitVec 3) (rd : Reg) :
    fRl (encA f5 aq rl rs2 rs1 f3 rd) = rl := by
  unfold fRl encA
  simp only [BitVec.getLsbD_append]
  simp

@[simp] theorem fOpcode_encR4 (rs3 : Reg) (fmt : BitVec 2) (rs2 rs1 : Reg) (rm : BitVec 3) (rd : Reg) (op : BitVec 7) :
    fOpcode (encR4 rs3 fmt rs2 rs1 rm rd op) = op := by
  unfold fOpcode encR4
  refine eq_of_bits fun i hi => ?_
  interval_cases i <;> (simp only [BitVec.getLsbD_extractLsb', BitVec.getLsbD_append]; simp)

@[simp] theorem fRd_encR4 (rs3 : Reg) (fmt : BitVec 2) (rs2 rs1 : Reg) (rm : BitVec 3) (rd : Reg) (op : BitVec 7) :
    fRd (encR4 rs3 fmt rs2 rs1 rm rd op) = rd := by
  unfold fRd encR4
  refine eq_of_bits fun i hi => ?_
  interval_cases i <;> (simp only [BitVec.getLsbD_extractLsb', BitVec.getLsbD_append]; simp)

@[simp] theorem fFunct3_encR4 (rs3 : Reg) (fmt : BitVec 2) (rs2 rs1 : Reg) (rm : BitVec 3) (rd : Reg) (op : BitVec 7) :
    fFunct3 (encR4 rs3 fmt rs2 rs1 rm rd op) = rm := by
  unfold fFunct3 encR4
  refine eq_of_bits fun i hi => ?_
  interval_cases i <;> (simp only [BitVec.getLsbD_extractLsb', BitVec.getLsbD_append]; simp)

@[simp] theorem fRs1_encR4 (rs3 : Reg) (fmt : BitVec 2) (rs2 rs1 : Reg) (rm : BitVec 3) (rd : Reg) (op : BitVec 7) :
    fRs1 (encR4 rs3 fmt rs2 rs1 rm rd op) = rs1 := by
  unfold fRs1 encR4
  refine eq_of_bits fun i hi => ?_
  interval_cases i <;> (simp only [BitVec.getLsbD_extractLsb', BitVec.getLsbD_append]; simp)

@[simp] theorem fRs2_encR4 (rs3 : Reg) (fmt : BitVec 2) (rs2 rs1 : Reg) (rm : BitVec 3) (rd : Reg) (op : BitVec 7) :
    fRs2 (encR4 rs3 fmt rs2 rs1 rm rd op) = rs2 := by
  unfold fRs2 encR4
  refine eq_of_bits fun i hi => ?_
  interval_cases i <;> (simp only [BitVec.getLsbD_extractLsb', BitVec.getLsbD_append]; simp)

@[simp] theorem fRs3_encR4 (rs3 : Reg) (fmt : BitVec 2) (rs2 rs1 : Reg) (rm : BitVec 3) (rd : Reg) (op : BitVec 7) :
    fRs3 (encR4 rs3 fmt rs2 rs1 rm rd op) = rs3 := by
  unfold fRs3 encR4
  refine eq_of_bits fun i hi => ?_
  interval_cases i <;> (simp only [BitVec.getLsbD_extractLsb', BitVec.getLsbD_append]; simp)

@[simp] theorem fFmt_encR4 (rs3 : Reg) (fmt : BitVec 2) (rs2 rs1 : Reg) (rm : BitVec 3) (rd : Reg) (op : BitVec 7) :
    fFmt (encR4 rs3 fmt rs2 rs1 rm rd op) = fmt := by
  unfold fFmt encR4
  refine eq_of_bits fun i hi => ?_
  interval_cases i <;> (simp only [BitVec.getLsbD_extractLsb', BitVec.getLsbD_append]; simp)

/-! ## 16-bit formats -/

@[simp] theorem bits_0_2_encCI (f3 : BitVec 3) (imm : BitVec 6) (rd : Reg) (op : BitVec 2) :
    (encCI f3 imm rd op).extractLsb' 0 2 = op := by
  unfold encCI
  refine eq_of_bits fun i hi => ?_
  interval_cases i <;> (simp only [BitVec.getLsbD_extractLsb', BitVec.getLsbD_append]; simp)

@[simp] theorem bits_13_3_encCI (f3 : BitVec 3) (imm : BitVec 6) (rd : Reg) (op : BitVec 2) :
    (encCI f3 imm rd op).extractLsb' 13 3 = f3 := by
  unfold encCI
  refine eq_of_bits fun i hi => ?_
  interval_cases i <;> (simp only [BitVec.getLsbD_extractLsb', BitVec.getLsbD_append]; simp)

@[simp] theorem cRd_encCI (f3 : BitVec 3) (imm : BitVec 6) (rd : Reg) (op : BitVec 2) :
    cRd (encCI f3 imm rd op) = rd := by
  unfold cRd encCI
  refine eq_of_bits fun i hi => ?_
  interval_cases i <;> (simp only [BitVec.getLsbD_extractLsb', BitVec.getLsbD_append]; simp)

@[simp] theorem cImm6_encCI (f3 : BitVec 3) (imm : BitVec 6) (rd : Reg) (op : BitVec 2) :
    cImm6 (encCI f3 imm rd op) = imm := by
  unfold cImm6 encCI
  refine eq_of_bits fun i hi => ?_
  interval_cases i <;> (simp only [BitVec.getLsbD_extractLsb', BitVec.getLsbD_append]; simp)

@[simp] theorem bits_0_2_encCR (f4 : BitVec 4) (rd rs2 : Reg) :
    (encCR f4 rd rs2).extractLsb' 0 2 = 0b10#2 := by
  unfold encCR
  refine eq_of_bits fun i hi => ?_
  interval_cases i <;> (simp only [BitVec.getLsbD_extractLsb', BitVec.getLsbD_append]; simp)

@[simp] theorem bits_13_3_encCR (f4 : BitVec 4) (rd rs2 : Reg) :
    (encCR f4 rd rs2).extractLsb' 13 3 = f4.extractLsb' 1 3 := by
  unfold encCR
  refine eq_of_bits fun i hi => ?_
  interval_cases i <;> (simp only [BitVec.getLsbD_extractLsb', BitVec.getLsbD_append]; simp)

@[simp] theorem bit_12_encCR (f4 : BitVec 4) (rd rs2 : Reg) :
    (encCR f4 rd rs2)[12] = f4[0] := by
  have h : (encCR f4 rd rs2).getLsbD 12 = f4.getLsbD 0 := by
    unfold encCR
    simp only [BitVec.getLsbD_append]
    simp
  simpa using h

@[simp] theorem cRd_encCR (f4 : BitVec 4) (rd rs2 : Reg) :
    cRd (encCR f4 rd rs2) = rd := by
  unfold cRd encCR
  refine eq_of_bits fun i hi => ?_
  interval_cases i <;> (simp only [BitVec.getLsbD_extractLsb', BitVec.getLsbD_append]; simp)

@[simp] theorem cRs2_encCR (f4 : BitVec 4) (rd rs2 : Reg) :
    cRs2 (encCR f4 rd rs2) = rs2 := by
  unfold cRs2 encCR
  refine eq_of_bits fun i hi => ?_
  interval_cases i <;> (simp only [BitVec.getLsbD_extractLsb', BitVec.getLsbD_append]; simp)

@[simp] theorem bits_0_2_encC4spn (uimm : BitVec 8) (rd : CReg) :
    (encC4spn uimm rd).extractLsb' 0 2 = 0b00#2 := by
  unfold encC4spn
  refine eq_of_bits fun i hi => ?_
  interval_cases i <;> (simp only [BitVec.getLsbD_extractLsb', BitVec.getLsbD_append]; simp)

@[simp] theorem bits_13_3_encC4spn (uimm : BitVec 8) (rd : CReg) :
    (encC4spn uimm rd).extractLsb' 13 3 = 0b000#3 := by
  unfold encC4spn
  refine eq_of_bits fun i hi => ?_
  interval_cases i <;> (simp only [BitVec.getLsbD_extractLsb', BitVec.getLsbD_append]; simp)

@[simp] theorem cLow_encC4spn (uimm : BitVec 8) (rd : CReg) :
    cLow (encC4spn uimm rd) = rd := by
  unfold cLow encC4spn
  refine eq_of_bits fun i hi => ?_
  interval_cases i <;> (simp only [BitVec.getLsbD_extractLsb', BitVec.getLsbD_append]; simp)

@[simp] theorem cImm4spn_encC4spn (uimm : BitVec 8) (rd : CReg) :
    cImm4spn (encC4spn uimm rd) = uimm := by
  unfold cImm4spn encC4spn
  refine eq_of_bits fun i hi => ?_
  interval_cases i <;> (simp only [BitVec.getLsbD_extractLsb', BitVec.getLsbD_append]; simp)

@[simp] theorem bits_0_2_encC16sp (imm : BitVec 6) :
    (encC16sp imm).extractLsb' 0 2 = 0b01#2 := by
  unfold encC16sp
  refine eq_of_bits fun i hi => ?_
  interval_cases i <;> (simp only [BitVec.getLsbD_extractLsb', BitVec.getLsbD_append]; simp)

@[simp] theorem bits_13_3_encC16sp (imm : BitVec 6) :
    (encC16sp imm).extractLsb' 13 3 = 0b011#3 := by
  unfold encC16sp
  refine eq_of_bits fun i hi => ?_
  interval_cases i <;> (simp only [BitVec.getLsbD_extractLsb', BitVec.getLsbD_append]; simp)

@[simp] theorem cRd_encC16sp (imm : BitVec 6) :
    cRd (encC16sp imm) = 2 := by
  unfold cRd encC16sp
  refine eq_of_bits fun i hi => ?_
  interval_cases i <;> (simp only [BitVec.getLsbD_extractLsb', BitVec.getLsbD_append]; simp)

@[simp] theorem cImm16sp_encC16sp (imm : BitVec 6) :
    cImm16sp (encC16sp imm) = imm := by
  unfold cImm16sp encC16sp
  refine eq_of_bits fun i hi => ?_
  interval_cases i <;> (simp only [BitVec.getLsbD_extractLsb', BitVec.getLsbD_append]; simp)

@[simp] theorem bits_0_2_encCW (f3 : BitVec 3) (uimm : BitVec 5) (rs1 r : CReg) :
    (encCW f3 uimm rs1 r).extractLsb' 0 2 = 0b00#2 := by
  unfold encCW
  refine eq_of_bits fun i hi => ?_
  interval_cases i <;> (simp only [BitVec.getLsbD_extractLsb', BitVec.getLsbD_append]; simp)

@[simp] theorem bits_13_3_encCW (f3 : BitVec 3) (uimm : BitVec 5) (rs1 r : CReg) :
    (encCW f3 uimm rs1 r).extractLsb' 13 3 = f3 := by
  unfold encCW
  refine eq_of_bits fun i hi => ?_
  interval_cases i <;> (simp only [BitVec.getLsbD_extractLsb', BitVec.getLsbD_append]; simp)

@[simp] theorem cLow_encCW (f3 : BitVec 3) (uimm : BitVec 5) (rs1 r : CReg) :
    cLow (encCW f3 uimm rs1 r) = r := by
  unfold cLow encCW
  refine eq_of_bits fun i hi => ?_
  interval_cases i <;> (simp only [BitVec.getLsbD_extractLsb', BitVec.getLsbD_append]; simp)

@[simp] theorem cHigh_encCW (f3 : BitVec 3) (uimm : BitVec 5) (rs1 r : CReg) :
    cHigh (encCW f3 uimm rs1 r) = rs1 := by
  unfold cHigh encCW
  refine eq_of_bits fun i hi => ?_
  interval_cases i <;> (simp only [BitVec.getLsbD_extractLsb', BitVec.getLsbD_append]; simp)

@[simp] theorem cImmW_encCW (f3 : BitVec 3) (uimm : BitVec 5) (rs1 r : CReg) :
    cImmW (encCW f3 uimm rs1 r) = uimm := by
  unfold cImmW encCW
  refine eq_of_bits fun i hi => ?_
  interval_cases i <;> (simp only [BitVec.getLsbD_extractLsb', BitVec.getLsbD_append]; simp)

@[simp] theorem bits_0_2_encCD (f3 : BitVec 3) (uimm : BitVec 5) (rs1 r : CReg) :
    (encCD f3 uimm rs1 r).extractLsb' 0 2 = 0b00#2 := by
  unfold encCD
  refine eq_of_bits fun i hi => ?_
  interval_cases i <;> (simp only [BitVec.getLsbD_extractLsb', BitVec.getLsbD_append]; simp)

@[simp] theorem bits_13_3_encCD (f3 : BitVec 3) (uimm : BitVec 5) (rs1 r : CReg) :
    (encCD f3 uimm rs1 r).extractLsb' 13 3 = f3 := by
  unfold encCD
  refine eq_of_bits fun i hi => ?_
  interval_cases i <;> (simp only [BitVec.getLsbD_extractLsb', BitVec.getLsbD_append]; simp)

@[simp] theorem cLow_encCD (f3 : BitVec 3) (uimm : BitVec 5) (rs1 r : CReg) :
    cLow (encCD f3 uimm rs1 r) = r := by
  unfold cLow encCD
  refine eq_of_bits fun i hi => ?_
  interval_cases i <;> (simp only [BitVec.getLsbD_extractLsb', BitVec.getLsbD_append]; simp)

@[simp] theorem cHigh_encCD (f3 : BitVec 3) (uimm : BitVec 5) (rs1 r : CReg) :
    cHigh (encCD f3 uimm rs1 r) = rs1 := by
  unfold cHigh encCD
  refine eq_of_bits fun i hi => ?_
  interval_cases i <;> (simp only [BitVec.getLsbD_extractLsb', BitVec.getLsbD_append]; simp)

@[simp] theorem cImmD_encCD (f3 : BitVec 3) (uimm : BitVec 5) (rs1 r : CReg) :
    cImmD (encCD f3 uimm rs1 r) = uimm := by
  unfold cImmD encCD
  refine eq_of_bits fun i hi => ?_
  interval_cases i <;> (simp only [BitVec.getLsbD_extractLsb', BitVec.getLsbD_append]; simp)

@[simp] theorem bits_0_2_encCLwsp (f3 : BitVec 3) (uimm : BitVec 6) (rd : Reg) :
    (encCLwsp f3 uimm rd).extractLsb' 0 2 = 0b10#2 := by
  unfold encCLwsp
  refine eq_of_bits fun i hi => ?_
  interval_cases i <;> (simp only [BitVec.getLsbD_extractLsb', BitVec.getLsbD_append]; simp)

@[simp] theorem bits_13_3_encCLwsp (f3 : BitVec 3) (uimm : BitVec 6) (rd : Reg) :
    (encCLwsp f3 uimm rd).extractLsb' 13 3 = f3 := by
  unfold encCLwsp
  refine eq_of_bits fun i hi => ?_
  interval_cases i <;> (simp only [BitVec.getLsbD_extractLsb', BitVec.getLsbD_append]; simp)

@[simp] theorem cRd_encCLwsp (f3 : BitVec 3) (uimm : BitVec 6) (rd : Reg) :
    cRd (encCLwsp f3 uimm rd) = rd := by
  unfold cRd encCLwsp
  refine eq_of_bits fun i hi => ?_
  interval_cases i <;> (simp only [BitVec.getLsbD_extractLsb', BitVec.getLsbD_append]; simp)

@[simp] theorem cImmLwsp_encCLwsp (f3 : BitVec 3) (uimm : BitVec 6) (rd : Reg) :
    cImmLwsp (encCLwsp f3 uimm rd) = uimm := by
  unfold cImmLwsp encCLwsp
  refine eq_of_bits fun i hi => ?_
  interval_cases i <;> (simp only [BitVec.getLsbD_extractLsb', BitVec.getLsbD_append]; simp)

@[simp] theorem bits_0_2_encCLdsp (f3 : BitVec 3) (uimm : BitVec 6) (rd : Reg) :
    (encCLdsp f3 uimm rd).extractLsb' 0 2 = 0b10#2 := by
  unfold encCLdsp
  refine eq_of_bits fun i hi => ?_
  interval_cases i <;> (simp only [BitVec.getLsbD_extractLsb', BitVec.getLsbD_append]; simp)

@[simp] theorem bits_13_3_encCLdsp (f3 : BitVec 3) (uimm : BitVec 6) (rd : Reg) :
    (encCLdsp f3 uimm rd).extractLsb' 13 3 = f3 := by
  unfold encCLdsp
  refine eq_of_bits fun i hi => ?_
  interval_cases i <;> (simp only [BitVec.getLsbD_extractLsb', BitVec.getLsbD_append]; simp)

@[simp] theorem cRd_encCLdsp (f3 : BitVec 3) (uimm : BitVec 6) (rd : Reg) :
    cRd (encCLdsp f3 uimm rd) = rd := by
  unfold cRd encCLdsp
  refine eq_of_bits fun i hi => ?_
  interval_cases i <;> (simp only [BitVec.getLsbD_extractLsb', BitVec.getLsbD_append]; simp)

@[simp] theorem cImmLdsp_encCLdsp (f3 : BitVec 3) (uimm : BitVec 6) (rd : Reg) :
    cImmLdsp (encCLdsp f3 uimm rd) = uimm := by
  unfold cImmLdsp encCLdsp
  refine eq_of_bits fun i hi => ?_
  interval_cases i <;> (simp only [BitVec.getLsbD_extractLsb', BitVec.getLsbD_append]; simp)

@[simp] theorem bits_0_2_encCSwsp (f3 : BitVec 3) (uimm : BitVec 6) (rs2 : Reg) :
    (encCSwsp f3 uimm rs2).extractLsb' 0 2 = 0b10#2 := by
  unfold encCSwsp
  refine eq_of_bits fun i hi => ?_
  interval_cases i <;> (simp only [BitVec.getLsbD_extractLsb', BitVec.getLsbD_append]; simp)

@[simp] theorem bits_13_3_encCSwsp (f3 : BitVec 3) (uimm : BitVec 6) (rs2 : Reg) :
    (encCSwsp f3 uimm rs2).extractLsb' 13 3 = f3 := by
  unfold encCSwsp
  refine eq_of_bits fun i hi => ?_
  interval_cases i <;> (simp only [BitVec.getLsbD_extractLsb', BitVec.getLsbD_append]; simp)

@[simp] theorem cRs2_encCSwsp (f3 : BitVec 3) (uimm : BitVec 6) (rs2 : Reg) :
    cRs2 (encCSwsp f3 uimm rs2) = rs2 := by
  unfold cRs2 encCSwsp
  refine eq_of_bits fun i hi => ?_
  interval_cases i <;> (simp only [BitVec.getLsbD_extractLsb', BitVec.getLsbD_append]; simp)

@[simp] theorem cImmSwsp_encCSwsp (f3 : BitVec 3) (uimm : BitVec 6) (rs2 : Reg) :
    cImmSwsp (encCSwsp f3 uimm rs2) = uimm := by
  unfold cImmSwsp encCSwsp
  refine eq_of_bits fun i hi => ?_
  interval_cases i <;> (simp only [BitVec.getLsbD_extractLsb', BitVec.getLsbD_append]; simp)

@[simp] theorem bits_0_2_encCSdsp (f3 : BitVec 3) (uimm : BitVec 6) (rs2 : Reg) :
    (encCSdsp f3 uimm rs2).extractLsb' 0 2 = 0b10#2 := by
  unfold encCSdsp
  refine eq_of_bits fun i hi => ?_
  interval_cases i <;> (simp only [BitVec.getLsbD_extractLsb', BitVec.getLsbD_append]; simp)

@[simp] theorem bits_13_3_encCSdsp (f3 : BitVec 3) (uimm : BitVec 6) (rs2 : Reg) :
    (encCSdsp f3 uimm rs2).extractLsb' 13 3 = f3 := by
  unfold encCSdsp
  refine eq_of_bits fun i hi => ?_
  interval_cases i <;> (simp only [BitVec.getLsbD_extractLsb', BitVec.getLsbD_append]; simp)

@[simp] theorem cRs2_encCSdsp (f3 : BitVec 3) (uimm : BitVec 6) (rs2 : Reg) :
    cRs2 (encCSdsp f3 uimm rs2) = rs2 := by
  unfold cRs2 encCSdsp
  refine eq_of_bits fun i hi => ?_
  interval_cases i <;> (simp only [BitVec.getLsbD_extractLsb', BitVec.getLsbD_append]; simp)

@[simp] theorem cImmSdsp_encCSdsp (f3 : BitVec 3) (uimm : BitVec 6) (rs2 : Reg) :
    cImmSdsp (encCSdsp f3 uimm rs2) = uimm := by
  unfold cImmSdsp encCSdsp
  refine eq_of_bits fun i hi => ?_
  interval_cases i <;> (simp only [BitVec.getLsbD_extractLsb', BitVec.getLsbD_append]; simp)

@[simp] theorem bits_0_2_encCJ (f3 : BitVec 3) (off : BitVec 11) :
    (encCJ f3 off).extractLsb' 0 2 = 0b01#2 := by
  unfold encCJ
  refine eq_of_bits fun i hi => ?_
  interval_cases i <;> (simp only [BitVec.getLsbD_extractLsb', BitVec.getLsbD_append]; simp)

@[simp] theorem bits_13_3_encCJ (f3 : BitVec 3) (off : BitVec 11) :
    (encCJ f3 off).extractLsb' 13 3 = f3 := by
  unfold encCJ
  refine eq_of_bits fun i hi => ?_
  interval_cases i <;> (simp only [BitVec.getLsbD_extractLsb', BitVec.getLsbD_append]; simp)

@[simp] theorem cOffJ_encCJ (f3 : BitVec 3) (off : BitVec 11) :
    cOffJ (encCJ f3 off) = off := by
  unfold cOffJ encCJ
  refine eq_of_bits fun i hi => ?_
  interval_cases i <;> (simp only [BitVec.getLsbD_extractLsb', BitVec.getLsbD_append]; simp)

@[simp] theorem bits_0_2_encCB (f3 : BitVec 3) (rs1 : CReg) (off : BitVec 8) :
    (encCB f3 rs1 off).extractLsb' 0 2 = 0b01#2 := by
  unfold encCB
  refine eq_of_bits fun i hi => ?_
  interval_cases i <;> (simp only [BitVec.getLsbD_extractLsb', BitVec.getLsbD_append]; simp)

@[simp] theorem bits_13_3_encCB (f3 : BitVec 3) (rs1 : CReg) (off : BitVec 8) :
    (encCB f3 rs1 off).extractLsb' 13 3 = f3 := by
  unfold encCB
  refine eq_of_bits fun i hi => ?_
  interval_cases i <;> (simp only [BitVec.getLsbD_extractLsb', BitVec.getLsbD_append]; simp)

@[simp] theorem cHigh_encCB (f3 : BitVec 3) (rs1 : CReg) (off : BitVec 8) :
    cHigh (encCB f3 rs1 off) = rs1 := by
  unfold cHigh encCB
  refine eq_of_bits fun i hi => ?_
  interval_cases i <;> (simp only [BitVec.getLsbD_extractLsb', BitVec.getLsbD_append]; simp)

@[simp] theorem cOffB_encCB (f3 : BitVec 3) (rs1 : CReg) (off : BitVec 8) :
    cOffB (encCB f3 rs1 off) = off := by
  unfold cOffB encCB
  refine eq_of_bits fun i hi => ?_
  interval_cases i <;> (simp only [BitVec.getLsbD_extractLsb', BitVec.getLsbD_append]; simp)

@[simp] theorem bits_0_2_encCAI (f2 : BitVec 2) (imm : BitVec 6) (rd : CReg) :
    (encCAI f2 imm rd).extractLsb' 0 2 = 0b01#2 := by
  unfold encCAI
  refine eq_of_bits fun i hi => ?_
  interval_cases i <;> (simp only [BitVec.getLsbD_extractLsb', BitVec.getLsbD_append]; simp)

@[simp] theorem bits_13_3_encCAI (f2 : BitVec 2) (imm : BitVec 6) (rd : CReg) :
    (encCAI f2 imm rd).extractLsb' 13 3 = 0b100#3 := by
  unfold encCAI
  refine eq_of_bits fun i hi => ?_
  interval_cases i <;> (simp only [BitVec.getLsbD_extractLsb', BitVec.getLsbD_append]; simp)

@[simp] theorem bits_10_2_encCAI (f2 : BitVec 2) (imm : BitVec 6) (rd : CReg) :
    (encCAI f2 imm rd).extractLsb' 10 2 = f2 := by
  unfold encCAI
  refine eq_of_bits fun i hi => ?_
  interval_cases i <;> (simp only [BitVec.getLsbD_extractLsb', BitVec.getLsbD_append]; simp)

@[simp] theorem cHigh_encCAI (f2 : BitVec 2) (imm : BitVec 6) (rd : CReg) :
    cHigh (encCAI f2 imm rd) = rd := by
  unfold cHigh encCAI
  refine eq_of_bits fun i hi => ?_
  interval_cases i <;> (simp only [BitVec.getLsbD_extractLsb', BitVec.getLsbD_append]; simp)

@[simp] theorem cImm6_encCAI (f2 : BitVec 2) (imm : BitVec 6) (rd : CReg) :
    cImm6 (encCAI f2 imm rd) = imm := by
  unfold cImm6 encCAI
  refine eq_of_bits fun i hi => ?_
  interval_cases i <;> (simp only [BitVec.getLsbD_extractLsb', BitVec.getLsbD_append]; simp)

@[simp] theorem bits_0_2_encCA (f6 : BitVec 6) (f2 : BitVec 2) (rd rs2 : CReg) :
    (encCA f6 f2 rd rs2).extractLsb' 0 2 = 0b01#2 := by
  unfold encCA
  refine eq_of_bits fun i hi => ?_
  interval_cases i <;> (simp only [BitVec.getLsbD_extractLsb', BitVec.getLsbD_append]; simp)

@[simp] theorem bits_13_3_encCA (f6 : BitVec 6) (f2 : BitVec 2) (rd rs2 : CReg) :
    (encCA f6 f2 rd rs2).extractLsb' 13 3 = f6.extractLsb' 3 3 := by
  unfold encCA
  refine eq_of_bits fun i hi => ?_
  interval_cases i <;> (simp only [BitVec.getLsbD_extractLsb', BitVec.getLsbD_append]; simp)

@[simp] theorem bits_12_1_encCA (f6 : BitVec 6) (f2 : BitVec 2) (rd rs2 : CReg) :
    (encCA f6 f2 rd rs2).extractLsb' 12 1 = f6.extractLsb' 2 1 := by
  unfold encCA
  refine eq_of_bits fun i hi => ?_
  interval_cases i
  simp only [BitVec.getLsbD_extractLsb', BitVec.getLsbD_append]
  simp

@[simp] theorem bits_10_2_encCA (f6 : BitVec 6) (f2 : BitVec 2) (rd rs2 : CReg) :
    (encCA f6 f2 rd rs2).extractLsb' 10 2 = f6.extractLsb' 0 2 := by
  unfold encCA
  refine eq_of_bits fun i hi => ?_
  interval_cases i <;> (simp only [BitVec.getLsbD_extractLsb', BitVec.getLsbD_append]; simp)

@[simp] theorem bits_5_2_encCA (f6 : BitVec 6) (f2 : BitVec 2) (rd rs2 : CReg) :
    (encCA f6 f2 rd rs2).extractLsb' 5 2 = f2 := by
  unfold encCA
  refine eq_of_bits fun i hi => ?_
  interval_cases i <;> (simp only [BitVec.getLsbD_extractLsb', BitVec.getLsbD_append]; simp)

@[simp] theorem cHigh_encCA (f6 : BitVec 6) (f2 : BitVec 2) (rd rs2 : CReg) :
    cHigh (encCA f6 f2 rd rs2) = rd := by
  unfold cHigh encCA
  refine eq_of_bits fun i hi => ?_
  interval_cases i <;> (simp only [BitVec.getLsbD_extractLsb', BitVec.getLsbD_append]; simp)

@[simp] theorem cLow_encCA (f6 : BitVec 6) (f2 : BitVec 2) (rd rs2 : CReg) :
    cLow (encCA f6 f2 rd rs2) = rs2 := by
  unfold cLow encCA
  refine eq_of_bits fun i hi => ?_
  interval_cases i <;> (simp only [BitVec.getLsbD_extractLsb', BitVec.getLsbD_append]; simp)

end Sys2Proof
end

