-- ==== Sys2Proof/Tests/Slice0.lean ====
section
/-!
SUPPORT. Tests: ill-formed terms are refused; words written out from the spec's encodings decode; one step of an
instruction gives what the spec's own vectors (95 to 98) say; and, for every statement with hypotheses, a state and operands
that meet them.
-/

namespace Sys2Proof.Tests

set_option Elab.async false

open Sys2Proof.Machine

/-! ## Helpers -/

/-- The configuration that the vectors have: the default one with this XLEN. -/
def withXlen (x : Xlen) : Config := { Config.default with xlen := x }

/-- The state after reset with this configuration, `pc` at 0x1000 as the vectors have it, and these x registers. -/
def hart (c : Config) (xs : List (Reg × Nat)) : State :=
  xs.foldl (fun s p => s.setX p.1 (BitVec.ofNat 64 p.2)) { State.reset with cfg := c, pc := 0x1000#64 }

/-- The state with `n` bytes of memory at `a` holding a value. -/
def withMem (a n v : Nat) (s : State) : State := { s with mem := s.mem.writeAt (addrsFrom a n) v }

/-- The state after the instruction; the same state where there is none. -/
def ran (i : Instr) (s : State) : State :=
  match exec i s with
  | .next t => t
  | .fault _ => s
  | .refused _ => s

/-- The state after the instruction that these bits are; a bare reset state where they are none. -/
def does (b : Bits) (s : State) : State :=
  match decode s.cfg b with
  | .ok i => ran i s
  | .error _ => State.reset

/-- The state after a step. -/
def stepped (s : State) : State :=
  match step s with
  | .next t => t
  | .fault _ => s
  | .refused _ => s

/-- A step has a next state. -/
def goesOn (s : State) : Bool :=
  match step s with
  | .next _ => true
  | .fault _ => false
  | .refused _ => false

theorem step_eq_stepped {s : State} (h : goesOn s = true) : step s = .next (stepped s) := by
  unfold goesOn at h
  unfold stepped
  cases e : step s with
  | next t => rfl
  | fault r => rw [e] at h; cases h
  | refused r => rw [e] at h; cases h

/-- The value of `n` bytes of memory. -/
def memAt (s : State) (a n : Nat) : Nat := s.mem.readAt (addrsFrom a n)

/-- Every word decodes to its instruction. -/
def reads (x : Xlen) (l : List (Bits × Instr)) : Bool :=
  l.all fun p => decide (decode (withXlen x) p.1 = .ok p.2)

/-- XLEN, the bits, the x registers before; a register and its value after. -/
abbrev IntVector := Xlen × Bits × List (Reg × Nat) × Reg × Nat

/-- The vector holds: the register has its value, and `pc` has passed the instruction. -/
def IntVector.holds : IntVector → Bool
  | (x, b, xs, rd, v) =>
    let t := does b (hart (withXlen x) xs)
    decide (t.ux rd = v) && decide (t.pc.toNat = 0x1000 + b.bytes.length)

/-- XLEN, the bits, the x and f registers and `fcsr` before; a register, an f one or not, its value and `fcsr` after. -/
abbrev FloatVector := Xlen × Bits × List (Reg × Nat) × List (Reg × Nat) × Nat × Bool × Reg × Nat × Nat

/-- The vector holds. -/
def FloatVector.holds : FloatVector → Bool
  | (x, b, xs, fs, fcsr, isF, rd, v, fcsr') =>
    let s := fs.foldl (fun s p => s.setF p.1 (BitVec.ofNat 64 p.2)) (hart (withXlen x) xs)
    let t := does b { s with fcsr := BitVec.ofNat 8 fcsr }
    decide ((if isF then (t.getF rd).toNat else t.ux rd) = v) && decide (t.fcsr.toNat = fcsr') &&
      decide (t.pc.toNat = 0x1004)

/-! ## Terms that are no instructions, one for each check of WellFormed -/

theorem test_wf_slli_shamt : (Instr.slli 1 2 32).wf .rv32 = false := by decide
theorem test_wf_srli_shamt : (Instr.srli 1 2 63).wf .rv32 = false := by decide
theorem test_wf_srai_shamt : (Instr.srai 1 2 32).wf .rv32 = false := by decide
theorem test_wf_c_shamt :
    (Instr.cSrli 1 32).wf .rv32 = false ∧ (Instr.cSrai 1 32).wf .rv32 = false ∧ (Instr.cSlli 1 32).wf .rv32 = false := by
  decide
theorem test_wf_c_addi4spn : (Instr.cAddi4spn 3 0).wf .rv64 = false := by decide
theorem test_wf_c_addi : (Instr.cAddi 0 5).wf .rv64 = false ∧ (Instr.cAddiw 0 5).wf .rv64 = false := by decide
theorem test_wf_c_addi16sp : (Instr.cAddi16sp 0).wf .rv64 = false := by decide
theorem test_wf_c_lui : (Instr.cLui 2 5).wf .rv64 = false ∧ (Instr.cLui 3 0).wf .rv64 = false := by decide
theorem test_wf_c_lwsp : (Instr.cLwsp 0 4).wf .rv64 = false ∧ (Instr.cLdsp 0 4).wf .rv64 = false := by decide
theorem test_wf_c_jr : (Instr.cJr 0).wf .rv64 = false ∧ (Instr.cJalr 0).wf .rv64 = false := by decide
theorem test_wf_c_mv :
    (Instr.cMv 3 0).wf .rv64 = false ∧ (Instr.cAdd 0 3).wf .rv64 = false ∧ (Instr.cAdd 3 0).wf .rv64 = false := by decide
theorem test_wf_rv64_only : (Instr.ld 1 2 0).wf .rv32 = false ∧ (Instr.addiw 1 2 0).wf .rv32 = false := by decide
theorem test_wf_rv32_only : (Instr.cJal 4).wf .rv64 = false ∧ (Instr.cFlw 1 2 0).wf .rv64 = false := by decide

/-! ## Decoding: one word for every constructor, its bits in the order in which opcode_table.json prints them -/

/-- RV32I. -/
theorem test_decode_rv32i_1 : reads .rv64
    [(.long 0b11011101101000010100100010110111#32, .lui 17 0b11011101101000010100),
     (.long 0b11011011010110110101101000010111#32, .auipc 20 0b11011011010110110101),
     (.long 0b01101001101011101110110111101111#32, .jal 27 0b01110111001101001101),
     (.long 0b10000010000010100000100011100111#32, .jalr 17 20 0b100000100000),
     (.long 0b01100001100010101000100101100011#32, .beq 21 24 0b001100001001),
     (.long 0b10011010101101000001110011100011#32, .bne 8 11 0b110011011100),
     (.long 0b01110011011010011100110011100011#32, .blt 19 22 0b011110011100),
     (.long 0b10111011101010111101001001100011#32, .bge 23 26 0b100111010010),
     (.long 0b00110000101101000110000101100011#32, .bltu 8 11 0b000110000001),
     (.long 0b00011011010010001111101011100011#32, .bgeu 17 20 0b010011011010),
     (.long 0b00010111001101010000001110000011#32, .lb 7 10 0b000101110011),
     (.long 0b11001111010010111001101000000011#32, .lh 20 23 0b110011110100),
     (.long 0b10100010011011100010110010000011#32, .lw 25 28 0b101000100110),
     (.long 0b10011000011000111100001000000011#32, .lbu 4 7 0b100110000110),
     (.long 0b11110110111110010101011110000011#32, .lhu 15 18 0b111101101111),
     (.long 0b10100111000110100000101100100011#32, .sb 17 20 0b101001110110),
     (.long 0b10011101101011101001110010100011#32, .sh 26 29 0b100111011001),
     (.long 0b00101001011111010010001010100011#32, .sw 23 26 0b001010000101),
     (.long 0b00000011110111001000101100010011#32, .addi 22 25 0b000000111101),
     (.long 0b00010000001010110010100110010011#32, .slti 19 22 0b000100000010),
     (.long 0b00001001001000111011001000010011#32, .sltiu 4 7 0b000010010010),
     (.long 0b11100001001001100100010010010011#32, .xori 9 12 0b111000010010),
     (.long 0b10011001100001101110010100010011#32, .ori 10 13 0b100110011000),
     (.long 0b11000111001100110111000110010011#32, .andi 3 6 0b110001110011)] = true := by decide +kernel

/-- RV32I. -/
theorem test_decode_rv32i_2 : reads .rv64
    [(.long 0b00000011010010100001100010010011#32, .slli 17 20 0b110100),
     (.long 0b00000010010110100101100010010011#32, .srli 17 20 0b100101),
     (.long 0b01000010000101100101010010010011#32, .srai 9 12 0b100001),
     (.long 0b00000001000001101000010100110011#32, .add 10 13 16),
     (.long 0b01000001110111010000101110110011#32, .sub 23 26 29),
     (.long 0b00000001001001111001011000110011#32, .sll 12 15 18),
     (.long 0b00000001100010101010100100110011#32, .slt 18 21 24),
     (.long 0b00000000100100110011000110110011#32, .sltu 3 6 9),
     (.long 0b00000001111011011100110000110011#32, .xor 24 27 30),
     (.long 0b00000000101101000101001010110011#32, .srl 5 8 11),
     (.long 0b01000001011110100101100010110011#32, .sra 17 20 23),
     (.long 0b00000001110111010110101110110011#32, .or 23 26 29),
     (.long 0b00000001000101110111010110110011#32, .and 11 14 17),
     (.long 0b00001000111000000000000000001111#32, .fence 0b1000 0b1110),
     (.long 0b00000000000000000001000000001111#32, .fenceI),
     (.long 0b00000000000000000000000001110011#32, .ecall),
     (.long 0b00000000000100000000000001110011#32, .ebreak),
     (.long 0b11000010000010011001011011110011#32, .csrrw 13 0b110000100000 19),
     (.long 0b10000011010010000010010101110011#32, .csrrs 10 0b100000110100 16),
     (.long 0b00000111100110010011011001110011#32, .csrrc 12 0b000001111001 18),
     (.long 0b10010000001011000101001011110011#32, .csrrwi 5 0b100100000010 0b11000),
     (.long 0b01100110100000011110001101110011#32, .csrrsi 6 0b011001101000 0b00011),
     (.long 0b01100010111100010111011001110011#32, .csrrci 12 0b011000101111 0b00010)] = true := by decide +kernel

/-- RV64I. -/
theorem test_decode_rv64i : reads .rv64
    [(.long 0b11011000111000110110000110000011#32, .lwu 3 6 0b110110001110),
     (.long 0b00000000001011011011110000000011#32, .ld 24 27 0b000000000010),
     (.long 0b00110100100101100011110110100011#32, .sd 9 12 0b001101011011),
     (.long 0b01111000010100111000001000011011#32, .addiw 4 7 0b011110000101),
     (.long 0b00000001011010010001011110011011#32, .slliw 15 18 0b10110),
     (.long 0b00000000110110010101011110011011#32, .srliw 15 18 0b01101),
     (.long 0b01000001001001000101001010011011#32, .sraiw 5 8 0b10010),
     (.long 0b00000001110111010000101110111011#32, .addw 23 26 29),
     (.long 0b01000000111101100000010010111011#32, .subw 9 12 15),
     (.long 0b00000000001111110001110110111011#32, .sllw 27 30 3),
     (.long 0b00000001111011011101110000111011#32, .srlw 24 27 30),
     (.long 0b01000001000101110101010110111011#32, .sraw 11 14 17)] = true := by decide +kernel

/-- M. -/
theorem test_decode_m : reads .rv64
    [(.long 0b00000011001110000000011010110011#32, .mul 13 16 19),
     (.long 0b00000010101101000001001010110011#32, .mulh 5 8 11),
     (.long 0b00000011001001111010011000110011#32, .mulhsu 12 15 18),
     (.long 0b00000011001110000011011010110011#32, .mulhu 13 16 19),
     (.long 0b00000010100100110100000110110011#32, .div 3 6 9),
     (.long 0b00000011011010011101100000110011#32, .divu 16 19 22),
     (.long 0b00000010001111110110110110110011#32, .rem 27 30 3),
     (.long 0b00000010110001001111001100110011#32, .remu 6 9 12),
     (.long 0b00000010110101010000001110111011#32, .mulw 7 10 13),
     (.long 0b00000011000001101100010100111011#32, .divw 10 13 16),
     (.long 0b00000011111111100101110010111011#32, .divuw 25 28 31),
     (.long 0b00000010110001001110001100111011#32, .remw 6 9 12),
     (.long 0b00000010100100110111000110111011#32, .remuw 3 6 9)] = true := by decide +kernel

/-- A. -/
theorem test_decode_a : reads .rv64
    [(.long 0b00010010000000111010001000101111#32, .lrW 4 7 false true),
     (.long 0b00011011010010111010100010101111#32, .scW 17 20 23 false true),
     (.long 0b00001101010111000010100100101111#32, .amoswapW 18 21 24 true false),
     (.long 0b00000100101101110010010000101111#32, .amoaddW 8 11 14 true false),
     (.long 0b00100101101111110010110000101111#32, .amoxorW 24 27 30 true false),
     (.long 0b01100101011111010010101000101111#32, .amoandW 20 23 26 true false),
     (.long 0b01000010110001111010010010101111#32, .amoorW 9 12 15 false true),
     (.long 0b10000011010010111010100010101111#32, .amominW 17 20 23 false true),
     (.long 0b10100011011011001010100110101111#32, .amomaxW 19 22 25 false true),
     (.long 0b11000010110001111010010010101111#32, .amominuW 9 12 15 false true),
     (.long 0b11100101110101001010110100101111#32, .amomaxuW 26 29 9 true false),
     (.long 0b00010100000011110011110110101111#32, .lrD 27 30 true false),
     (.long 0b00011010101001101011001110101111#32, .scD 7 10 13 false true),
     (.long 0b00001101001110110011100000101111#32, .amoswapD 16 19 22 true false),
     (.long 0b00000011101011101011101110101111#32, .amoaddD 23 26 29 false true),
     (.long 0b00100011001010101011011110101111#32, .amoxorD 15 18 21 false true),
     (.long 0b01100100100101100011001100101111#32, .amoandD 6 9 12 true false),
     (.long 0b01000011001010101011011110101111#32, .amoorD 15 18 21 false true),
     (.long 0b10000101001110110011100000101111#32, .amominD 16 19 22 true false),
     (.long 0b10100010110001111011010010101111#32, .amomaxD 9 12 15 false true),
     (.long 0b11000010011001001011000110101111#32, .amominuD 3 6 9 false true),
     (.long 0b11100010111010001011010110101111#32, .amomaxuD 11 14 17 false true)] = true := by decide +kernel

/-- F and D, computing and moving memory. -/
theorem test_decode_fd_1 : reads .rv64
    [(.long 0b01001101110111000010101010000111#32, .flw 21 24 0b010011011101),
     (.long 0b00110100001100110010111110100111#32, .fsw 3 6 0b001101011111),
     (.long 0b01100100111001011011010000000111#32, .fld 8 11 0b011001001110),
     (.long 0b10100101011011001011001000100111#32, .fsd 22 25 0b101001000100),
     (.long 0b11110001101111000001101011000011#32, .fmaddS 21 24 27 30 0b001),
     (.long 0b10010010111101100001010011000011#32, .fmaddD 9 12 15 18 0b001),
     (.long 0b10100001000101110011010111000111#32, .fmsubS 11 14 17 20 0b011),
     (.long 0b11111011110011001010101101000111#32, .fmsubD 22 25 28 31 0b010),
     (.long 0b10101001001001111100011001001011#32, .fnmsubS 12 15 18 21 0b100),
     (.long 0b01110010101101000011001011001011#32, .fnmsubD 5 8 11 14 0b011),
     (.long 0b11110001101111000001101011001111#32, .fnmaddS 21 24 27 30 0b001),
     (.long 0b10011011000001101010010101001111#32, .fnmaddD 10 13 16 19 0b010),
     (.long 0b00000001010010001000011101010011#32, .faddS 14 17 20 0b000),
     (.long 0b00000011110011001010101101010011#32, .faddD 22 25 28 0b010),
     (.long 0b00001000110101010111001111010011#32, .fsubS 7 10 13 0b111),
     (.long 0b00001011100010101100100101010011#32, .fsubD 18 21 24 0b100),
     (.long 0b00010001101111000001101011010011#32, .fmulS 21 24 27 0b001),
     (.long 0b00010011010110010001011111010011#32, .fmulD 15 18 21 0b001),
     (.long 0b00011001110111010011101111010011#32, .fdivS 23 26 29 0b011)] = true := by decide +kernel

/-- F and D, computing and moving memory. -/
theorem test_decode_fd_2 : reads .rv64
    [(.long 0b00011011001001111100011001010011#32, .fdivD 12 15 18 0b100),
     (.long 0b01011000000011001010101101010011#32, .fsqrtS 22 25 0b010),
     (.long 0b01011010000011101000110101010011#32, .fsqrtD 26 29 0b000),
     (.long 0b00100000111001011000010001010011#32, .fsgnjS 8 11 14),
     (.long 0b00100010100111101000110101010011#32, .fsgnjD 26 29 9),
     (.long 0b00100001110111010001101111010011#32, .fsgnjnS 23 26 29),
     (.long 0b00100011101010111001101001010011#32, .fsgnjnD 20 23 26),
     (.long 0b00100000111101100010010011010011#32, .fsgnjxS 9 12 15),
     (.long 0b00100011111011011010110001010011#32, .fsgnjxD 24 27 30),
     (.long 0b00101001010110010000011111010011#32, .fminS 15 18 21),
     (.long 0b00101011100010101000100101010011#32, .fminD 18 21 24),
     (.long 0b00101001110011001001101101010011#32, .fmaxS 22 25 28),
     (.long 0b00101010101101000001001011010011#32, .fmaxD 5 8 11),
     (.long 0b10100001011010011010100001010011#32, .feqS 16 19 22),
     (.long 0b10100010101000111010001001010011#32, .feqD 4 7 10),
     (.long 0b10100000110001001001001101010011#32, .fltS 6 9 12),
     (.long 0b10100010110001001001001101010011#32, .fltD 6 9 12),
     (.long 0b10100000101000111000001001010011#32, .fleS 4 7 10),
     (.long 0b10100011100110110000100111010011#32, .fleD 19 22 25)] = true := by decide +kernel

/-- F and D, converting and moving. -/
theorem test_decode_fd_convert : reads .rv64
    [(.long 0b11100000000001110001010111010011#32, .fclassS 11 14),
     (.long 0b11100010000001101001010101010011#32, .fclassD 10 13),
     (.long 0b11000000000011101000110101010011#32, .fcvtWS 26 29 0b000),
     (.long 0b11000010000010010001011111010011#32, .fcvtWD 15 18 0b001),
     (.long 0b11000000000110011010100001010011#32, .fcvtWuS 16 19 0b010),
     (.long 0b11000010000111001010101101010011#32, .fcvtWuD 22 25 0b010),
     (.long 0b11010000000001111100011001010011#32, .fcvtSW 12 15 0b100),
     (.long 0b11010010000001011000010001010011#32, .fcvtDW 8 11 0b000),
     (.long 0b11010000000101000011001011010011#32, .fcvtSWu 5 8 0b011),
     (.long 0b11010010000101101010010101010011#32, .fcvtDWu 10 13 0b010),
     (.long 0b01000000000110111000101001010011#32, .fcvtSD 20 23 0b000),
     (.long 0b01000010000011001010101101010011#32, .fcvtDS 22 25 0b010),
     (.long 0b11100000000001000000001011010011#32, .fmvXW 5 8),
     (.long 0b11110000000001110000010111010011#32, .fmvWX 11 14),
     (.long 0b11000000001001100001010011010011#32, .fcvtLS 9 12 0b001),
     (.long 0b11000010001011101000110101010011#32, .fcvtLD 26 29 0b000),
     (.long 0b11000000001110011010100001010011#32, .fcvtLuS 16 19 0b010),
     (.long 0b11000010001101101010010101010011#32, .fcvtLuD 10 13 0b010),
     (.long 0b11010000001001111100011001010011#32, .fcvtSL 12 15 0b100),
     (.long 0b11010010001010110111100111010011#32, .fcvtDL 19 22 0b111),
     (.long 0b11010000001101010111001111010011#32, .fcvtSLu 7 10 0b111),
     (.long 0b11010010001101010111001111010011#32, .fcvtDLu 7 10 0b111),
     (.long 0b11100010000010000000011011010011#32, .fmvXD 13 16),
     (.long 0b11110010000011011000110001010011#32, .fmvDX 24 27)] = true := by decide +kernel

/-- Privileged. -/
theorem test_decode_privileged : reads .rv64
    [(.long 0b00110000001000000000000001110011#32, .mret),
     (.long 0b00010000001000000000000001110011#32, .sret),
     (.long 0b00010000010100000000000001110011#32, .wfi),
     (.long 0b00010011100010101000000001110011#32, .sfenceVma 21 24)] = true := by decide +kernel

/-- C. -/
theorem test_decode_c_1 : reads .rv64
    [(.short 0b0000110011110100#16, .cAddi4spn 5 0b10010111),
     (.short 0b0011011001101000#16, .cFld 2 4 0b11101),
     (.short 0b0101110111000100#16, .cLw 1 3 0b01111),
     (.short 0b0111101001101000#16, .cLd 2 4 0b11110),
     (.short 0b1010111001001000#16, .cFsd 2 4 0b10011),
     (.short 0b1100011110010100#16, .cSw 5 7 0b00010),
     (.short 0b1110010100100000#16, .cSd 0 2 0b01001),
     (.short 0b0000000000100001#16, .cNop 0b001000),
     (.short 0b0000001010010001#16, .cAddi 5 0b000100),
     (.short 0b0011011100111101#16, .cAddiw 14 0b101111),
     (.short 0b0101001001100101#16, .cLi 4 0b111001),
     (.short 0b0111000101101101#16, .cAddi16sp 0b101111),
     (.short 0b0110110010100001#16, .cLui 25 0b001000),
     (.short 0b1001000111011001#16, .cSrli 3 0b110110),
     (.short 0b1001010110101101#16, .cSrai 3 0b101011),
     (.short 0b1001100001100101#16, .cAndi 0 0b111001),
     (.short 0b1000110110010101#16, .cSub 3 5),
     (.short 0b1000111100100001#16, .cXor 6 0),
     (.short 0b1000110011001101#16, .cOr 1 3)] = true := by decide +kernel

/-- C. -/
theorem test_decode_c_2 : reads .rv64
    [(.short 0b1000110001101001#16, .cAnd 0 2),
     (.short 0b1001110110010101#16, .cSubw 3 5),
     (.short 0b1001110010101101#16, .cAddw 1 3),
     (.short 0b1011110001100001#16, .cJ 0b10101001100),
     (.short 0b1100001011101001#16, .cBeqz 5 0b01100001),
     (.short 0b1110000110011001#16, .cBnez 3 0b00000011),
     (.short 0b0001101100010010#16, .cSlli 22 0b100100),
     (.short 0b0011001010100010#16, .cFldsp 5 0b000101),
     (.short 0b0100101111110010#16, .cLwsp 23 0b000111),
     (.short 0b0111100001010110#16, .cLdsp 16 0b101110),
     (.short 0b1001000000000010#16, .cEbreak),
     (.short 0b1000011110000010#16, .cJr 15),
     (.short 0b1001110100000010#16, .cJalr 26),
     (.short 0b1000110011110010#16, .cMv 25 28),
     (.short 0b1001101011100010#16, .cAdd 21 24),
     (.short 0b1011000111000110#16, .cFsdsp 17 0b011100),
     (.short 0b1100101111000110#16, .cSwsp 17 0b110101),
     (.short 0b1110001101001110#16, .cSdsp 19 0b110000)] = true := by decide +kernel

/-- C, of RV32 only. -/
theorem test_decode_c32 : reads .rv32
    [(.short 0b0110111100110000#16, .cFlw 4 6 0b10110),
     (.short 0b1110010100000000#16, .cFsw 0 2 0b00010),
     (.short 0b0011100001110101#16, .cJal 0b10001011110),
     (.short 0b0111010110001110#16, .cFlwsp 11 0b111000),
     (.short 0b1110101001010010#16, .cFswsp 20 0b000101)] = true := by decide +kernel

/-- Reserved and illegal code points: vectors T225, T226, T227, T231, T654, T658, T664, T762, T763. -/
theorem test_decode_refuses :
    ([(.rv32, .long 0x00000000#32), (.rv32, .long 0xffffffff#32), (.rv32, .short 0x0000#16), (.rv32, .long 0x0005b503#32),
      (.rv32, .short 0x8000#16), (.rv32, .short 0x8002#16), (.rv64, .short 0x9d4d#16), (.rv32, .long 0x50b6252f#32),
      (.rv32, .long 0x00b6052f#32)] : List (Xlen × Bits)).all
      (fun p => match decode (withXlen p.1) p.2 with
        | .ok _ => false
        | .error _ => true) = true := by decide +kernel

/-- The bytes of an instruction are in little-endian order, the low parcel first; the bytes after it stay. -/
theorem test_decode_bytes :
    decodeBytes Config.default [0x33, 0x85, 0xc5, 0x00, 0x01] = .ok (.add 10 11 12, [0x01]) := by decide +kernel

/-- A table word is the instruction the step runs. -/
theorem test_withFetchWord :
    decodeTableWord 32 0x00c58533 = some (.add 10 11 12) ∧
    (State.reset.withFetchWord 32 0x00c58533).fetchDecode =
      .execute (State.reset.withFetchWord 32 0x00c58533) (.add 10 11 12) := by decide +kernel

/-! ## Results: the spec's own vectors -/

/-- Base integer computation: 96_test_vectors_derived.md sections 4.1, 4.2, vectors T101 T105 T106 T107 T108 T112
T113 T116 T114 T117 T118 T119 T120 T121 T124 T122 T125 T126 T129 T131 T132 T133 T137 T138 T139 T140 T141 T142
T235 T144 T149 T145 T150 T151 T153 T155 T157. -/
theorem test_result_rv32i : ([
    (.rv32, (.long 0x00c58533#32), [(11, 0xffffffff), (12, 1)], 10, 0),
    (.rv32, (.long 0x00a50533#32), [(10, 0x80000001)], 10, 2),
    (.rv32, (.long 0x40c58533#32), [(11, 0), (12, 1)], 10, 0xffffffff),
    (.rv32, (.long 0x40c58533#32), [(11, 0x80000000), (12, 1)], 10, 0x7fffffff),
    (.rv32, (.long 0x00c59533#32), [(11, 1), (12, 0x1f)], 10, 0x80000000),
    (.rv32, (.long 0x00c59533#32), [(11, 3), (12, 0xffffffff)], 10, 0x80000000),
    (.rv32, (.long 0x00c5a533#32), [(11, 0xffffffff), (12, 1)], 10, 1),
    (.rv32, (.long 0x00c5a533#32), [(11, 7), (12, 7)], 10, 0),
    (.rv32, (.long 0x00c5b533#32), [(11, 0xffffffff), (12, 1)], 10, 0),
    (.rv32, (.long 0x00b03533#32), [(11, 0x80000000)], 10, 1),
    (.rv32, (.long 0x00c5c533#32), [(11, 0xff00ff00), (12, 0xff00ff0)], 10, 0xf0f0f0f0),
    (.rv32, (.long 0x00c5e533#32), [(11, 0xff00ff00), (12, 0xff00ff0)], 10, 0xfff0fff0),
    (.rv32, (.long 0x00c5f533#32), [(11, 0xff00ff00), (12, 0xff00ff0)], 10, 0xf000f00),
    (.rv32, (.long 0x00c5d533#32), [(11, 0x80000000), (12, 0x1f)], 10, 1),
    (.rv64, (.long 0x00c5d533#32), [(11, 0xffffffff80000000), (12, 0x3f)], 10, 1),
    (.rv32, (.long 0x40c5d533#32), [(11, 0x80000000), (12, 0x1f)], 10, 0xffffffff),
    (.rv64, (.long 0x40c5d533#32), [(11, 0x8000000000000000), (12, 0x3c)], 10, 0xfffffffffffffff8),
    (.rv32, (.long 0xfff58513#32), [(11, 0)], 10, 0xffffffff),
    (.rv64, (.long 0xfff58513#32), [(11, 0x100000000)], 10, 0xffffffff),
    (.rv32, (.long 0xfff5a513#32), [(11, 0xfffffffe)], 10, 1),
    (.rv32, (.long 0xfff5a513#32), [(11, 0)], 10, 0),
    (.rv32, (.long 0xfff5b513#32), [(11, 0xfffffffe)], 10, 1),
    (.rv32, (.long 0x0015b513#32), [(11, 2)], 10, 0),
    (.rv32, (.long 0xfff5c513#32), [(11, 0x12345678)], 10, 0xedcba987),
    (.rv32, (.long 0x8005e513#32), [(11, 0x123)], 10, 0xfffff923),
    (.rv32, (.long 0xff05f513#32), [(11, 0x12345678)], 10, 0x12345670),
    (.rv32, (.long 0x0ff5f513#32), [(11, 0x12345678)], 10, 0x78),
    (.rv32, (.long 0x01f59513#32), [(11, 3)], 10, 0x80000000),
    (.rv64, (.long 0x02059513#32), [(11, 0xffffffff)], 10, 0xffffffff00000000),
    (.rv32, (.long 0x01f5d513#32), [(11, 0x80000000)], 10, 1),
    (.rv64, (.long 0x03f5d513#32), [(11, 0x8000000000000000)], 10, 1),
    (.rv32, (.long 0x41f5d513#32), [(11, 0x80000000)], 10, 0xffffffff),
    (.rv64, (.long 0x43f5d513#32), [(11, 0x8000000000000000)], 10, 0xffffffffffffffff),
    (.rv32, (.long 0xfffff537#32), [], 10, 0xfffff000),
    (.rv64, (.long 0x7ffff537#32), [], 10, 0x7ffff000),
    (.rv32, (.long 0x00001517#32), [], 10, 0x2000),
    (.rv64, (.long 0x80000517#32), [], 10, 0xffffffff80001000)] : List IntVector).all IntVector.holds = true := by decide +kernel

/-- The word instructions: section 4.4, vectors T301 T302 T303 T304 T305 T306 T307 T308 T309 T310 T311 T312 T313
T314 T315 T316 T317 T318. -/
theorem test_result_rv64i : ([
    (.rv64, (.long 0x00c5853b#32), [(11, 0x7fffffff), (12, 1)], 10, 0xffffffff80000000),
    (.rv64, (.long 0x00c5853b#32), [(11, 0xdeadbeefffffffff), (12, 1)], 10, 0),
    (.rv64, (.long 0x40c5853b#32), [(11, 0), (12, 1)], 10, 0xffffffffffffffff),
    (.rv64, (.long 0x40c5853b#32), [(11, 0x80000000), (12, 1)], 10, 0x7fffffff),
    (.rv64, (.long 0x0005851b#32), [(11, 0x180000000)], 10, 0xffffffff80000000),
    (.rv64, (.long 0xfff5851b#32), [(11, 0x80000000)], 10, 0x7fffffff),
    (.rv64, (.long 0x01f5951b#32), [(11, 0xffffffff00000001)], 10, 0xffffffff80000000),
    (.rv64, (.long 0x0005951b#32), [(11, 0x80000000)], 10, 0xffffffff80000000),
    (.rv64, (.long 0x0005d51b#32), [(11, 0x80000000)], 10, 0xffffffff80000000),
    (.rv64, (.long 0x01f5d51b#32), [(11, 0x1234567880000000)], 10, 1),
    (.rv64, (.long 0x41f5d51b#32), [(11, 0x80000000)], 10, 0xffffffffffffffff),
    (.rv64, (.long 0x4045d51b#32), [(11, 0xffffffff7fffffff)], 10, 0x7ffffff),
    (.rv64, (.long 0x00c5953b#32), [(11, 1), (12, 0x20)], 10, 1),
    (.rv64, (.long 0x00c5953b#32), [(11, 0x40000000), (12, 1)], 10, 0xffffffff80000000),
    (.rv64, (.long 0x00c5d53b#32), [(11, 0xffffffffffffffff), (12, 0x1c)], 10, 0xf),
    (.rv64, (.long 0x00c5d53b#32), [(11, 0xffffffffffffffff), (12, 0x20)], 10, 0xffffffffffffffff),
    (.rv64, (.long 0x40c5d53b#32), [(11, 0x80000000), (12, 4)], 10, 0xfffffffff8000000),
    (.rv64, (.long 0x40c5d53b#32), [(11, 0xffffffff7fffffff), (12, 4)], 10, 0x7ffffff)] : List IntVector).all IntVector.holds = true := by decide +kernel

/-- Multiply and divide: section 5, vectors T401 T411 T404 T413 T405 T412 T406 T407 T414 T415 T416 T436 T417 T435
T420 T437 T421 T431 T438 T444 T439 T442 T441 T447 T443 T446. -/
theorem test_result_m : ([
    (.rv32, (.long 0x02c58533#32), [(11, 0x10000), (12, 0x10000)], 10, 0),
    (.rv64, (.long 0x02c58533#32), [(11, 0x100000000), (12, 0x100000000)], 10, 0),
    (.rv32, (.long 0x02c59533#32), [(11, 0xffffffff), (12, 0xffffffff)], 10, 0),
    (.rv64, (.long 0x02c59533#32), [(11, 0xffffffffffffffff), (12, 2)], 10, 0xffffffffffffffff),
    (.rv32, (.long 0x02c5b533#32), [(11, 0xffffffff), (12, 0xffffffff)], 10, 0xfffffffe),
    (.rv64, (.long 0x02c5b533#32), [(11, 0x100000000), (12, 0x100000000)], 10, 1),
    (.rv32, (.long 0x02c5a533#32), [(11, 0xffffffff), (12, 0xffffffff)], 10, 0xffffffff),
    (.rv32, (.long 0x02c5a533#32), [(11, 0x7fffffff), (12, 0xffffffff)], 10, 0x7ffffffe),
    (.rv64, (.long 0x02c5853b#32), [(11, 0x10000), (12, 0x8000)], 10, 0xffffffff80000000),
    (.rv64, (.long 0x02c5853b#32), [(11, 0xffffffff00000003), (12, 0xabcdef0100000005)], 10, 0xf),
    (.rv32, (.long 0x02c5c533#32), [(11, 0xfffffff9), (12, 2)], 10, 0xfffffffd),
    (.rv64, (.long 0x02c5c533#32), [(11, 0x80000000), (12, 0xffffffffffffffff)], 10, 0xffffffff80000000),
    (.rv32, (.long 0x02c5e533#32), [(11, 0xfffffff9), (12, 2)], 10, 0xffffffff),
    (.rv64, (.long 0x02c5e533#32), [(11, 0x8000000000000000), (12, 0xffffffffffffffff)], 10, 0),
    (.rv32, (.long 0x02c5d533#32), [(11, 0xfffffff9), (12, 2)], 10, 0x7ffffffc),
    (.rv64, (.long 0x02c5d533#32), [(11, 1), (12, 0)], 10, 0xffffffffffffffff),
    (.rv32, (.long 0x02c5f533#32), [(11, 0xfffffff9), (12, 2)], 10, 1),
    (.rv32, (.long 0x02c5f533#32), [(11, 0x80000000), (12, 0xffffffff)], 10, 0x80000000),
    (.rv64, (.long 0x02c5c53b#32), [(11, 0xffffffff80000000), (12, 0xffffffffffffffff)], 10, 0xffffffff80000000),
    (.rv64, (.long 0x02c5c53b#32), [(11, 0x1fffffff9), (12, 2)], 10, 0xfffffffffffffffd),
    (.rv64, (.long 0x02c5e53b#32), [(11, 0xffffffff80000000), (12, 0xffffffffffffffff)], 10, 0),
    (.rv64, (.long 0x02c5e53b#32), [(11, 0x12345678fffffff9), (12, 0)], 10, 0xfffffffffffffff9),
    (.rv64, (.long 0x02c5d53b#32), [(11, 7), (12, 0)], 10, 0xffffffffffffffff),
    (.rv64, (.long 0x02c5d53b#32), [(11, 0x80000000), (12, 1)], 10, 0xffffffff80000000),
    (.rv64, (.long 0x02c5f53b#32), [(11, 0x1234567880000000), (12, 0)], 10, 0xffffffff80000000),
    (.rv64, (.long 0x02c5f53b#32), [(11, 0xfffffffffffffff9), (12, 0x100000002)], 10, 1)] : List IntVector).all IntVector.holds = true := by decide +kernel

/-- Compressed computation: section 6, vectors T601 T602 T609 T673 T613 T614 T615 T616 T617 T618 T619 T621 T622 T676
T624 T625 T626 T627 T628 T629 T630 T631 T632 T633 T640 T641 T646 T649. -/
theorem test_result_c : ([
    (.rv32, (.short 0x1fe8#16), [(2, 0x7ffffc00)], 10, 0x7ffffffc),
    (.rv32, (.short 0x0040#16), [(2, 0xfffffffc)], 8, 0),
    (.rv32, (.short 0x17fd#16), [(15, 0)], 15, 0xffffffff),
    (.rv32, (.short 0x0501#16), [(10, 9)], 10, 9),
    (.rv64, (.short 0x2505#16), [(10, 0x7fffffff)], 10, 0xffffffff80000000),
    (.rv64, (.short 0x2501#16), [(10, 0x1234567880000000)], 10, 0xffffffff80000000),
    (.rv32, (.short 0x5501#16), [], 10, 0xffffffe0),
    (.rv64, (.short 0x457d#16), [(10, 0xffffffffffffffff)], 10, 0x1f),
    (.rv32, (.short 0x7101#16), [(2, 0x1000)], 2, 0xe00),
    (.rv32, (.short 0x617d#16), [(2, 0x1000)], 2, 0x11f0),
    (.rv32, (.short 0x657d#16), [], 10, 0x1f000),
    (.rv64, (.short 0x757d#16), [], 10, 0xfffffffffffff000),
    (.rv32, (.short 0x817d#16), [(10, 0x80000000)], 10, 1),
    (.rv32, (.short 0x8101#16), [(10, 0x80000000)], 10, 0x80000000),
    (.rv32, (.short 0x8511#16), [(10, 0x80000000)], 10, 0xf8000000),
    (.rv64, (.short 0x957d#16), [(10, 0x8000000000000000)], 10, 0xffffffffffffffff),
    (.rv32, (.short 0x9941#16), [(10, 0x12345678)], 10, 0x12345670),
    (.rv32, (.short 0x883d#16), [(8, 0x12345678)], 8, 8),
    (.rv32, (.short 0x8d0d#16), [(10, 0), (11, 1)], 10, 0xffffffff),
    (.rv32, (.short 0x8d2d#16), [(10, 0xff00ff00), (11, 0xff00ff0)], 10, 0xf0f0f0f0),
    (.rv32, (.short 0x8d4d#16), [(10, 0xff00ff00), (11, 0xff00ff0)], 10, 0xfff0fff0),
    (.rv32, (.short 0x8d6d#16), [(10, 0xff00ff00), (11, 0xff00ff0)], 10, 0xf000f00),
    (.rv64, (.short 0x9d0d#16), [(10, 0x80000000), (11, 1)], 10, 0x7fffffff),
    (.rv64, (.short 0x9d2d#16), [(10, 0x7fffffff), (11, 1)], 10, 0xffffffff80000000),
    (.rv32, (.short 0x078a#16), [(15, 0xc0000001)], 15, 4),
    (.rv64, (.short 0x157e#16), [(10, 3)], 10, 0x8000000000000000),
    (.rv32, (.short 0x8636#16), [(12, 1), (13, 0x12345678)], 12, 0x12345678),
    (.rv32, (.short 0x97aa#16), [(15, 0xffffffff), (10, 2)], 15, 1)] : List IntVector).all IntVector.holds = true := by decide +kernel

/-- Single precision: 97_test_vectors_fp.md, vectors T501 T519 T522 T523 T525 T532 T535 T541 T544 T548 T551 T563
T552 T559 T553 T554 T564 T566 T574 T567 T570 T568 T569 T575 T581 T576 T580 T584 T587 T588 T591 T593 T595 T1616
T1618. -/
theorem test_result_s : ([
    (.rv32, (.long 0x00c5f553#32), [], [(11, 0xffffffff3f800000), (12, 0xffffffff40000000)], 0, true, 10, 0xffffffff40400000, 0),
    (.rv32, (.long 0x00c5f553#32), [], [(11, 0xffffffff3f800000), (12, 0xffffffff40000000)], 0x10, true, 10, 0xffffffff40400000, 0x10),
    (.rv32, (.long 0x08c5f553#32), [], [(11, 0xffffffff3f800000), (12, 0xffffffff3f800000)], 0, true, 10, 0xffffffff00000000, 0),
    (.rv32, (.long 0x08c5f553#32), [], [(11, 0xffffffff00800000), (12, 0xffffffff00000001)], 0, true, 10, 0xffffffff007fffff, 0),
    (.rv32, (.long 0x10c5f553#32), [], [(11, 0xffffffff40400000), (12, 0xffffffffc0200000)], 0, true, 10, 0xffffffffc0f00000, 0),
    (.rv32, (.long 0x10c5b553#32), [], [(11, 0xffffffffff7fffff), (12, 0xffffffff40000000)], 0, true, 10, 0xffffffffff7fffff, 5),
    (.rv32, (.long 0x18c5f553#32), [], [(11, 0xffffffff3f800000), (12, 0xffffffff40400000)], 0, true, 10, 0xffffffff3eaaaaab, 1),
    (.rv32, (.long 0x18c5f553#32), [], [(11, 0xffffffff3f800000), (12, 0xffffffff7f800000)], 0, true, 10, 0xffffffff00000000, 0),
    (.rv32, (.long 0x5805f553#32), [], [(11, 0xffffffff40800000)], 0, true, 10, 0xffffffff40000000, 0),
    (.rv32, (.long 0x5805f553#32), [], [(11, 0xffffffff7f800000)], 0, true, 10, 0xffffffff7f800000, 0),
    (.rv32, (.long 0x68c5f543#32), [], [(11, 0xffffffff40000000), (12, 0xffffffff40400000), (13, 0xffffffff3f800000)], 0, true, 10, 0xffffffff40e00000, 0),
    (.rv32, (.long 0x68c5a543#32), [], [(11, 0xffffffff3f800000), (12, 0xffffffff3f800000), (13, 0xffffffffbf800000)], 0, true, 10, 0xffffffff80000000, 0),
    (.rv32, (.long 0x68c5f547#32), [], [(11, 0xffffffff40000000), (12, 0xffffffff40400000), (13, 0xffffffff3f800000)], 0, true, 10, 0xffffffff40a00000, 0),
    (.rv32, (.long 0x68c5f547#32), [], [(11, 0xffffffff3f800800), (12, 0xffffffff3f800800), (13, 0xffffffff3f800000)], 0, true, 10, 0xffffffff3a000400, 0),
    (.rv32, (.long 0x68c5f54b#32), [], [(11, 0xffffffff40000000), (12, 0xffffffff40400000), (13, 0xffffffff3f800000)], 0, true, 10, 0xffffffffc0a00000, 0),
    (.rv32, (.long 0x68c5f54f#32), [], [(11, 0xffffffff40000000), (12, 0xffffffff40400000), (13, 0xffffffff3f800000)], 0, true, 10, 0xffffffffc0e00000, 0),
    (.rv32, (.long 0x68c5f54f#32), [], [(11, 0xffffffff00000000), (12, 0xffffffff3f800000), (13, 0xffffffff00000000)], 0, true, 10, 0xffffffff80000000, 0),
    (.rv32, (.long 0x20c58553#32), [], [(11, 0xffffffff3fc00000), (12, 0xffffffff80000000)], 0, true, 10, 0xffffffffbfc00000, 0),
    (.rv32, (.long 0x20c58553#32), [], [(11, 0x123456783fc00000), (12, 0xffffffff80000000)], 0, true, 10, 0xffffffffffc00000, 0),
    (.rv32, (.long 0x20c59553#32), [], [(11, 0xffffffff3fc00000), (12, 0xffffffff80000000)], 0, true, 10, 0xffffffff3fc00000, 0),
    (.rv32, (.long 0x20c59553#32), [], [(11, 0xffffffff7fa00001), (12, 0xffffffff7fa00001)], 0, true, 10, 0xffffffffffa00001, 0),
    (.rv32, (.long 0x20c5a553#32), [], [(11, 0xffffffffbfc00000), (12, 0xffffffff80000000)], 0, true, 10, 0xffffffff3fc00000, 0),
    (.rv32, (.long 0x20c5a553#32), [], [(11, 0xffffffffbfc00000), (12, 0xffffffffbfc00000)], 0, true, 10, 0xffffffff3fc00000, 0),
    (.rv32, (.long 0x28c58553#32), [], [(11, 0xffffffff3f800000), (12, 0xffffffffc0000000)], 0, true, 10, 0xffffffffc0000000, 0),
    (.rv32, (.long 0x28c58553#32), [], [(11, 0xffffffff7fc00001), (12, 0xffffffffffc00002)], 0, true, 10, 0xffffffff7fc00000, 0),
    (.rv32, (.long 0x28c59553#32), [], [(11, 0xffffffff3f800000), (12, 0xffffffffc0000000)], 0, true, 10, 0xffffffff3f800000, 0),
    (.rv32, (.long 0x28c59553#32), [], [(11, 0xffffffff3f800000), (12, 0xffffffff7fa00000)], 0, true, 10, 0xffffffff3f800000, 0x10),
    (.rv32, (.long 0xa0c5a553#32), [], [(11, 0xffffffff3f800000), (12, 0xffffffff3f800000)], 0, false, 10, 1, 0),
    (.rv32, (.long 0xa0c5a553#32), [], [(11, 0xffffffff7fa00000), (12, 0xffffffff3f800000)], 0, false, 10, 0, 0x10),
    (.rv32, (.long 0xa0c59553#32), [], [(11, 0xffffffff3f800000), (12, 0xffffffff40000000)], 0, false, 10, 1, 0),
    (.rv32, (.long 0xa0c59553#32), [], [(11, 0xffffffff7fc00000), (12, 0xffffffff3f800000)], 0, false, 10, 0, 0x10),
    (.rv32, (.long 0xa0c58553#32), [], [(11, 0xffffffff3f800000), (12, 0xffffffff3f800000)], 0, false, 10, 1, 0),
    (.rv32, (.long 0xa0c58553#32), [], [(11, 0xffffffff3f800000), (12, 0xffffffff7fc00000)], 0, false, 10, 0, 0x10),
    (.rv32, (.long 0xe0059553#32), [], [(11, 0xffffffffff800000)], 0, false, 10, 1, 0),
    (.rv32, (.long 0xe0059553#32), [], [(11, 0xffffffff80000001)], 0, false, 10, 4, 0)] : List FloatVector).all FloatVector.holds = true := by decide +kernel

/-- Double precision: 97_test_vectors_fp.md, vectors T520 T521 T524 T533 T534 T542 T543 T549 T550 T555 T560 T556
T557 T565 T558 T571 T572 T573 T583 T596 T597 T598 T1632 T1634. -/
theorem test_result_d : ([
    (.rv32, (.long 0x02c5f553#32), [], [(11, 0x3fb999999999999a), (12, 0x3fc999999999999a)], 0, true, 10, 0x3fd3333333333334, 1),
    (.rv32, (.long 0x02c5f553#32), [], [(11, 0x3ff0000000000000), (12, 0x3ca0000000000000)], 0, true, 10, 0x3ff0000000000000, 1),
    (.rv32, (.long 0x0ac5f553#32), [], [(11, 0x7ff0000000000000), (12, 0x7ff0000000000000)], 0, true, 10, 0x7ff8000000000000, 0x10),
    (.rv32, (.long 0x12c5f553#32), [], [(11, 0x6974e718d7d7625a), (12, 0x6974e718d7d7625a)], 0, true, 10, 0x7ff0000000000000, 5),
    (.rv32, (.long 0x12c5f553#32), [], [(11, 0x3fb999999999999a), (12, 0x4008000000000000)], 0, true, 10, 0x3fd3333333333334, 1),
    (.rv32, (.long 0x1ac5f553#32), [], [(11, 0x3ff0000000000000), (12, 0x4008000000000000)], 0, true, 10, 0x3fd5555555555555, 1),
    (.rv32, (.long 0x1ac5f553#32), [], [(11, 0x4018000000000000), (12, 0x4008000000000000)], 0, true, 10, 0x4000000000000000, 0),
    (.rv32, (.long 0x5a05f553#32), [], [(11, 0x4000000000000000)], 0, true, 10, 0x3ff6a09e667f3bcd, 1),
    (.rv32, (.long 0x5a059553#32), [], [(11, 0x4000000000000000)], 0, true, 10, 0x3ff6a09e667f3bcc, 1),
    (.rv32, (.long 0x6ac5f543#32), [], [(11, 0x4000000000000000), (12, 0x4008000000000000), (13, 0x3ff0000000000000)], 0, true, 10, 0x401c000000000000, 0),
    (.rv32, (.long 0x6ac5f543#32), [], [(11, 0x3fb999999999999a), (12, 0x4024000000000000), (13, 0xbff0000000000000)], 0, true, 10, 0x3c90000000000000, 0),
    (.rv32, (.long 0x6ac5f547#32), [], [(11, 0x4000000000000000), (12, 0x4008000000000000), (13, 0x3ff0000000000000)], 0, true, 10, 0x4014000000000000, 0),
    (.rv32, (.long 0x6ac5f54b#32), [], [(11, 0x4000000000000000), (12, 0x4008000000000000), (13, 0x3ff0000000000000)], 0, true, 10, 0xc014000000000000, 0),
    (.rv32, (.long 0x6ac5f54b#32), [], [(11, 0x3ff8000000000000), (12, 0x4000000000000000), (13, 0x4008000000000000)], 0, true, 10, 0, 0),
    (.rv32, (.long 0x6ac5f54f#32), [], [(11, 0x4000000000000000), (12, 0x4008000000000000), (13, 0x3ff0000000000000)], 0, true, 10, 0xc01c000000000000, 0),
    (.rv32, (.long 0x22c58553#32), [], [(11, 0xc000000000000000), (12, 0x4008000000000000)], 0, true, 10, 0x4000000000000000, 0),
    (.rv32, (.long 0x22c59553#32), [], [(11, 0x4000000000000000), (12, 0x4000000000000000)], 0, true, 10, 0xc000000000000000, 0),
    (.rv32, (.long 0x22c5a553#32), [], [(11, 0xc000000000000000), (12, 0xc000000000000000)], 0, true, 10, 0x4000000000000000, 0),
    (.rv32, (.long 0x2ac59553#32), [], [(11, 0x7ff8000000000000), (12, 0x7ff4000000000000)], 0, true, 10, 0x7ff8000000000000, 0x10),
    (.rv32, (.long 0xa2c5a553#32), [], [(11, 0x3fb999999999999a), (12, 0x3fb999999999999a)], 0, false, 10, 1, 0),
    (.rv32, (.long 0xa2c59553#32), [], [(11, 0xbff0000000000000), (12, 0xc000000000000000)], 0, false, 10, 0, 0),
    (.rv32, (.long 0xa2c58553#32), [], [(11, 0x7ff8000000000000), (12, 0x7ff8000000000000)], 0, false, 10, 0, 0x10),
    (.rv32, (.long 0xe2059553#32), [], [(11, 0xfff0000000000000)], 0, false, 10, 1, 0),
    (.rv32, (.long 0xe2059553#32), [], [(11, 0x800fffffffffffff)], 0, false, 10, 4, 0)] : List FloatVector).all FloatVector.holds = true := by decide +kernel

/-- Conversions: 97_test_vectors_fp.md, vectors T1501 T1528 T1529 T1536 T1537 T1541 T1542 T1545 T1546 T1557 T1558
T1561 T1562 T1563 T1564 T1565 T1566 T1577 T1578 T1583 T1584 T1588 T1589 T1592 T1593 T1597 T1598 T1602 T1603
T1606 T1607 T1608 T1609 T1612 T1613 T1615. -/
theorem test_result_fcvt : ([
    (.rv32, (.long 0xc0058553#32), [], [(11, 0xffffffff40200000)], 0, false, 10, 2, 1),
    (.rv64, (.long 0xc005f553#32), [], [(11, 0xffffffffbf800000)], 0, false, 10, 0xffffffffffffffff, 0),
    (.rv32, (.long 0xc015f553#32), [], [(11, 0xffffffff4f32d05e)], 0, false, 10, 0xb2d05e00, 0),
    (.rv32, (.long 0xc015f553#32), [], [(11, 0xffffffff7fc00000)], 0, false, 10, 0xffffffff, 0x10),
    (.rv32, (.long 0xc205f553#32), [], [(11, 0x4004000000000000)], 0, false, 10, 2, 1),
    (.rv32, (.long 0xc205f553#32), [], [(11, 0xc1e0000000200000)], 0, false, 10, 0x80000000, 0x10),
    (.rv32, (.long 0xc215f553#32), [], [(11, 0x41efffffffe00000)], 0, false, 10, 0xffffffff, 0),
    (.rv64, (.long 0xc215f553#32), [], [(11, 0x41efffffffe00000)], 0, false, 10, 0xffffffffffffffff, 0),
    (.rv32, (.long 0xd005f553#32), [(11, 0xfffffff9)], [], 0, true, 10, 0xffffffffc0e00000, 0),
    (.rv64, (.long 0xd005f553#32), [(11, 0x12345678fffffff9)], [], 0, true, 10, 0xffffffffc0e00000, 0),
    (.rv32, (.long 0xd015f553#32), [(11, 0xffffffff)], [], 0, true, 10, 0xffffffff4f800000, 1),
    (.rv64, (.long 0xd015f553#32), [(11, 0xffffffff80000000)], [], 0, true, 10, 0xffffffff4f000000, 0),
    (.rv32, (.long 0xd205f553#32), [(11, 0xfffffff9)], [], 0, true, 10, 0xc01c000000000000, 0),
    (.rv32, (.long 0xd205f553#32), [(11, 0x80000000)], [], 0, true, 10, 0xc1e0000000000000, 0),
    (.rv32, (.long 0xd215f553#32), [(11, 0xffffffff)], [], 0, true, 10, 0x41efffffffe00000, 0),
    (.rv32, (.long 0xd215f553#32), [(11, 0x80000000)], [], 0, true, 10, 0x41e0000000000000, 0),
    (.rv32, (.long 0x4015f553#32), [], [(11, 0x3fb999999999999a)], 0, true, 10, 0xffffffff3dcccccd, 1),
    (.rv32, (.long 0x4015f553#32), [], [(11, 0x3ff8000000000000)], 0, true, 10, 0xffffffff3fc00000, 0),
    (.rv32, (.long 0x4205f553#32), [], [(11, 0xffffffff3dcccccd)], 0, true, 10, 0x3fb99999a0000000, 0),
    (.rv32, (.long 0x4205f553#32), [], [(11, 0xffffffff80000000)], 0, true, 10, 0x8000000000000000, 0),
    (.rv64, (.long 0xc025f553#32), [], [(11, 0xffffffff501502f9)], 0, false, 10, 0x2540be400, 0),
    (.rv64, (.long 0xc025f553#32), [], [(11, 0xffffffff7fc00000)], 0, false, 10, 0x7fffffffffffffff, 0x10),
    (.rv64, (.long 0xc035f553#32), [], [(11, 0xffffffffbf800000)], 0, false, 10, 0, 0x10),
    (.rv64, (.long 0xc035f553#32), [], [(11, 0xffffffff5f7fffff)], 0, false, 10, 0xffffff0000000000, 0),
    (.rv64, (.long 0xc225f553#32), [], [(11, 0xc004000000000000)], 0, false, 10, 0xfffffffffffffffe, 1),
    (.rv64, (.long 0xc225f553#32), [], [(11, 0x43dfffffffffffff)], 0, false, 10, 0x7ffffffffffffc00, 0),
    (.rv64, (.long 0xc235f553#32), [], [(11, 0x7ff0000000000000)], 0, false, 10, 0xffffffffffffffff, 0x10),
    (.rv64, (.long 0xc235a553#32), [], [(11, 0xbfd0000000000000)], 0, false, 10, 0, 0x10),
    (.rv64, (.long 0xd025f553#32), [(11, 0xffffffffffffffff)], [], 0, true, 10, 0xffffffffbf800000, 0),
    (.rv64, (.long 0xd025f553#32), [(11, 0x8000000000000000)], [], 0, true, 10, 0xffffffffdf000000, 0),
    (.rv64, (.long 0xd035f553#32), [(11, 0xffffffffffffffff)], [], 0, true, 10, 0xffffffff5f800000, 1),
    (.rv64, (.long 0xd035a553#32), [(11, 0xffffffffffffffff)], [], 0, true, 10, 0xffffffff5f7fffff, 1),
    (.rv64, (.long 0xd225f553#32), [(11, 0xfffffffffffffff9)], [], 0, true, 10, 0xc01c000000000000, 0),
    (.rv64, (.long 0xd225f553#32), [(11, 0x8000000000000000)], [], 0, true, 10, 0xc3e0000000000000, 0),
    (.rv64, (.long 0xd235f553#32), [(11, 0xffffffffffffffff)], [], 0, true, 10, 0x43f0000000000000, 1),
    (.rv64, (.long 0xd2359553#32), [(11, 0xffffffffffffffff)], [], 0, true, 10, 0x43efffffffffffff, 1)] : List FloatVector).all FloatVector.holds = true := by decide +kernel

/-- Loads: vectors T159, T160, T164, T165, T171, T172, T603, T606, T643. -/
theorem test_loads :
    let m := withMem 0x2000 4 0x017fff80
    let at_ (x : Xlen) := hart (withXlen x) [(11, 0x2000)]
    (does (.long 0x00058503#32) (m (at_ .rv32))).ux 10 = 0xffffff80 ∧
    (does (.long 0x0005c503#32) (m (at_ .rv32))).ux 10 = 0x80 ∧
    (does (.long 0x00259503#32) (m (at_ .rv32))).ux 10 = 0x17f ∧
    (does (.long 0x0005a503#32) (m (at_ .rv32))).ux 10 = 0x017fff80 ∧
    (does (.long 0x0005e503#32) (withMem 0x2000 4 0x80000001 (at_ .rv64))).ux 10 = 0x80000001 ∧
    (does (.long 0x0005b503#32) (withMem 0x2000 8 0x8877665544332211 (at_ .rv64))).ux 10 = 0x8877665544332211 ∧
    (does (.short 0x41c8#16) (withMem 0x2004 4 0x80000001 (at_ .rv32))).ux 10 = 0x80000001 ∧
    (does (.short 0x7de8#16) (withMem 0x20f8 8 0x1122334455667788 (at_ .rv64))).ux 10 = 0x1122334455667788 ∧
    (does (.short 0x557e#16) (withMem 0x30fc 4 0xffffffff (hart (withXlen .rv32) [(2, 0x3000)]))).ux 10 = 0xffffffff := by
  decide +kernel

/-- Stores: vectors T174, T175, T176, T177, T179, T605, T607, T650. -/
theorem test_stores :
    let ones := withMem 0x2000 4 0xffffffff
    let at_ (x : Xlen) (a v : Nat) := hart (withXlen x) [(10, v), (11, a)]
    memAt (does (.long 0x00a58023#32) (ones (at_ .rv32 0x2001 0x11223344))) 0x2000 4 = 0xffff44ff ∧
    memAt (does (.long 0x00a59123#32) (ones (at_ .rv32 0x2000 0x11223344))) 0x2000 4 = 0x3344ffff ∧
    memAt (does (.long 0x00a5a023#32) (ones (at_ .rv32 0x2000 0x11223344))) 0x2000 1 = 0x44 ∧
    memAt (does (.long 0x80a5a023#32) (at_ .rv32 0x2800 0xcafef00d)) 0x2000 4 = 0xcafef00d ∧
    memAt (does (.long 0x00a5b423#32) (at_ .rv64 0x2000 0x0102030405060708)) 0x2008 4 = 0x05060708 ∧
    memAt (does (.short 0xc028#16) (hart (withXlen .rv32) [(10, 0xdeadbeef), (8, 0x2000)])) 0x2040 4 = 0xdeadbeef ∧
    memAt (does (.short 0xe588#16) (at_ .rv64 0x2000 0x1122334455667788)) 0x2008 8 = 0x1122334455667788 ∧
    memAt (does (.short 0xdf86#16) (hart (withXlen .rv32) [(1, 0x10404), (2, 0x3000)])) 0x30fc 4 = 0x10404 := by
  decide +kernel

/-- Branches: vectors T181, T182, T184, T185, T186, T187, T188, T636, T637, T638. -/
theorem test_branches :
    let go (b : Bits) (x y : Nat) := (does b (hart (withXlen .rv32) [(10, x), (11, y)])).pc.toNat
    go (.long 0x00b50863#32) 5 5 = 0x1010 ∧ go (.long 0x00b50863#32) 5 6 = 0x1004 ∧
    go (.long 0x00b51863#32) 5 6 = 0x1010 ∧ go (.long 0x00b54863#32) 0xffffffff 1 = 0x1010 ∧
    go (.long 0x00b56863#32) 0xffffffff 1 = 0x1004 ∧ go (.long 0x00b55863#32) 1 0xffffffff = 0x1010 ∧
    go (.long 0x00b57863#32) 1 0xffffffff = 0x1004 ∧ go (.short 0xd101#16) 0 0 = 0xf00 ∧
    go (.short 0xd101#16) 1 0 = 0x1002 ∧ go (.short 0xed7d#16) 0x80000000 0 = 0x10fe := by decide +kernel

/-- Jumps: vectors T199, T202, T203, T611, T634, T645, T648. -/
theorem test_jumps :
    let at_ (pc : Word) (xs : List (Reg × Nat)) : State := { hart (withXlen .rv32) xs with pc := pc }
    let went (b : Bits) (s : State) (link : Reg) := ((does b s).pc.toNat, (does b s).ux link)
    went (.long 0x800000ef#32) (at_ 0x100000 []) 1 = (0, 0x100004) ∧
    went (.long 0x000500e7#32) (at_ 0x1000 [(10, 0x2001)]) 1 = (0x2000, 0x1004) ∧
    went (.long 0x00450567#32) (at_ 0x1000 [(10, 0x2000)]) 10 = (0x2004, 0x1004) ∧
    went (.short 0x2ffd#16) (at_ 0x100 []) 1 = (0x8fe, 0x102) ∧
    went (.short 0xbffd#16) (at_ 0x1000 []) 1 = (0xffe, 0) ∧
    went (.short 0x8082#16) (at_ 0x1000 [(1, 0x2001)]) 1 = (0x2000, 0x2001) ∧
    went (.short 0x9082#16) (at_ 0x200 [(1, 0x300)]) 1 = (0x300, 0x202) := by decide +kernel

/-- Atomics: vectors T702, T704, T705, T725, T726, T728 to T730, T735 to T738, T745, T749, T753 to T756. -/
theorem test_atomics :
    let w (b : Bits) (m v : Nat) :=
      let t := does b (withMem 0x2000 4 m (hart (withXlen .rv32) [(11, v), (12, 0x2000)]))
      (memAt t 0x2000 4, t.ux 10)
    let d (b : Bits) (m v : Nat) :=
      let t := does b (withMem 0x2000 8 m (hart (withXlen .rv64) [(11, v), (12, 0x2000)]))
      (memAt t 0x2000 8, t.ux 10)
    w (.long 0x08b6252f#32) 5 9 = (9, 5) ∧ w (.long 0x00b6252f#32) 0xffffffff 2 = (1, 0xffffffff) ∧
    w (.long 0x20b6252f#32) 0xff00ff00 0x0ff00ff0 = (0xf0f0f0f0, 0xff00ff00) ∧
    w (.long 0x60b6252f#32) 0xff00ff00 0x0ff00ff0 = (0x0f000f00, 0xff00ff00) ∧
    w (.long 0x40b6252f#32) 0xff00ff00 0x0ff00ff0 = (0xfff0fff0, 0xff00ff00) ∧
    w (.long 0x80b6252f#32) 0x80000000 0x7fffffff = (0x80000000, 0x80000000) ∧
    w (.long 0xa0b6252f#32) 0x80000000 0x7fffffff = (0x7fffffff, 0x80000000) ∧
    w (.long 0xc0b6252f#32) 0x80000000 0x7fffffff = (0x7fffffff, 0x80000000) ∧
    w (.long 0xe0b6252f#32) 0x80000000 0x7fffffff = (0x80000000, 0x80000000) ∧
    d (.long 0x08b6252f#32) 0x80000000 0x1122334455667788 = (0x55667788, 0xffffffff80000000) ∧
    d (.long 0x00b6352f#32) 0xffffffffffffffff 1 = (0, 0xffffffffffffffff) ∧
    d (.long 0x80b6352f#32) 0xffffffffffffffff 1 = (0xffffffffffffffff, 0xffffffffffffffff) ∧
    d (.long 0xa0b6352f#32) 0xffffffffffffffff 1 = (1, 0xffffffffffffffff) ∧
    d (.long 0xc0b6352f#32) 0xffffffffffffffff 1 = (1, 0xffffffffffffffff) ∧
    d (.long 0xe0b6352f#32) 0xffffffffffffffff 1 = (0xffffffffffffffff, 0xffffffffffffffff) := by decide +kernel

/-- `lr.w` reserves its word (T702). -/
theorem test_lr :
    let t := does (.long 0x100526af#32) (withMem 0x2000 4 0x80000001 (hart (withXlen .rv64) [(10, 0x2000)]))
    t.ux 13 = 0xffffffff80000001 ∧ t.reservation = some ⟨0x2000, 4⟩ := by decide +kernel

/-- `sc.w` with and without the reservation (T704, T705). -/
theorem test_sc :
    let s := withMem 0x2000 4 5 (hart (withXlen .rv32) [(10, 0x2000), (12, 9)])
    let t := does (.long 0x18c526af#32) { s with reservation := some ⟨0x2000, 4⟩ }
    let u := does (.long 0x18c526af#32) s
    (memAt t 0x2000 4, t.ux 13, t.reservation) = (9, 0, none) ∧ (memAt u 0x2000 4, u.ux 13, u.reservation) = (5, 1, none) := by
  decide +kernel

/-- A misaligned atomic (T760) and, where they are not supported, a misaligned store (T221). -/
theorem test_misaligned :
    let t := does (.long 0x00b6352f#32) (hart (withXlen .rv64) [(12, 0x2004)])
    let u := does (.long 0x00a590a3#32)
      (hart { withXlen .rv32 with misalignedOk := false } [(10, 0xbeef), (11, 0x2000)])
    (t.mcause.toNat, t.mtval.toNat, t.mepc.toNat) = (6, 0x2004, 0x1000) ∧
    (u.mcause.toNat, u.mtval.toNat, memAt u 0x2000 4) = (6, 0x2001, 0) := by decide +kernel

/-- CSR instructions: vectors T801, T805, T807, T809, T810, T813, T822. -/
theorem test_csr :
    let s := hart (withXlen .rv32) [(10, 0x11), (11, 0x80)]
    let swap := does (.long 0x34051573#32) { s with mscratch := 0x22#64 }
    let set := does (.long 0x3045a573#32) { s with mie := 0x8#64 }
    let clear := does (.long 0x30053073#32) ((s.csrWrite .mstatus 0x1888#64).setX 10 0x8#64)
    let base := does (.long 0x30525073#32) { s with mtvec := 0x80000001#64 }
    let imm := does (.long 0x340fd573#32) { s with mscratch := 0xffffffff#64 }
    let read := does (.long 0x30006573#32) (s.csrWrite .mstatus 0x1888#64)
    let readOnly := does (.long 0xc020f573#32) s
    (swap.ux 10, swap.mscratch.toNat) = (0x22, 0x11) ∧ (set.ux 10, (set.csrRead .mie).toNat) = (0x8, 0x88) ∧
    (clear.csrRead .mstatus).toNat % 2 ^ 13 = 0x1880 ∧ (base.csrRead .mtvec).toNat = 4 ∧
    (imm.ux 10, imm.mscratch.toNat) = (0xffffffff, 0x1f) ∧ read.ux 10 % 2 ^ 13 = 0x1888 ∧
    (readOnly.mcause.toNat, readOnly.mtval.toNat) = (2, 0xc020f573) := by decide +kernel

/-- A hart of the trap vectors: no F, `mtvec` and `stvec` as they have them. -/
def trapHart (p : Priv) (mstatus medeleg : Word) : State :=
  { (hart { withXlen .rv32 with ext := { m := true, a := true, f := false, d := false, c := true, v := false } } []).csrWrite
      .mstatus mstatus with
    priv := p, pc := 0x10008#64, mtvec := 0x80000100#64, stvec := 0x400000#64, medeleg := medeleg }

/-- What the trap vectors list: mode, pc, mstatus, mepc, mcause. -/
def trapView (s : State) : Priv × Nat × Nat × Nat × Nat :=
  (s.priv, s.pc.toNat, (s.csrRead .mstatus).toNat, s.mepc.toNat, s.mcause.toNat)

/-- `ecall` and `ebreak` to machine mode (T901, T902, T903, T910). -/
theorem test_traps_to_m :
    trapView (ran .ecall (trapHart .u 0x8 0)) = (.m, 0x80000100, 0x80, 0x10008, 8) ∧
    trapView (ran .ecall (trapHart .s 0x8 0)) = (.m, 0x80000100, 0x880, 0x10008, 9) ∧
    trapView (ran .ecall (trapHart .m 0x8 0)) = (.m, 0x80000100, 0x1880, 0x10008, 11) ∧
    trapView (ran .ebreak (trapHart .m 0x8 0)) = (.m, 0x80000100, 0x1880, 0x10008, 3) := by decide +kernel

/-- `ecall` and an illegal `mret` delegated to supervisor mode (T905, T907, T909). -/
theorem test_traps_to_s :
    let sView (s : State) := (s.priv, s.pc.toNat, (s.csrRead .mstatus).toNat, s.sepc.toNat, s.scause.toNat, s.stval.toNat)
    sView (ran .ecall (trapHart .u 0xa 0x100)) = (.s, 0x400000, 0x28, 0x10008, 8, 0) ∧
    sView (ran .ecall (trapHart .s 0x2 0x200)) = (.s, 0x400000, 0x120, 0x10008, 9, 0) ∧
    sView (ran .mret (trapHart .u 0x8 0x4)) = (.s, 0x400000, 0x8, 0x10008, 2, 0x30200073) := by decide +kernel

/-- `mret` and `sret` (T939, T941, T943, T947, T949). -/
theorem test_returns :
    let m (mstatus : Word) := { trapHart .m mstatus 0 with mepc := 0x10008#64, sepc := 0x10008#64 }
    let s (mstatus : Word) := { trapHart .s mstatus 0 with sepc := 0x10008#64 }
    let view (s : State) := (s.priv, s.pc.toNat, (s.csrRead .mstatus).toNat)
    view (ran .mret (m 0x80)) = (.u, 0x10008, 0x88) ∧ view (ran .mret (m 0x880)) = (.s, 0x10008, 0x88) ∧
    view (ran .mret (m 0x19a2)) = (.m, 0x10008, 0x1aa) ∧ view (ran .sret (s 0x120)) = (.s, 0x10008, 0x22) ∧
    view (ran .sret (m 0x1920)) = (.s, 0x10008, 0x1822) := by decide +kernel

/-- The interrupt taken: T917, T918, T931, and T919, where none is. -/
theorem test_interrupts :
    let m (mstatus mtvec : Word) : State :=
      { trapHart .m mstatus 0 with mtvec := mtvec, mie := 0x80#64, mtime := 2#64, mtimecmp := 1#64 }
    let s : State :=
      { trapHart .s 0xa 0 with mideleg := 0x222#64, mie := 0x222#64, ssip := true, stip := true, seip := true }
    trapView (stepped (m 0x8 0x80000100)) = (.m, 0x80000100, 0x1880, 0x10008, 0x80000007) ∧
    (stepped (m 0x8 0x80000101)).pc.toNat = 0x8000011c ∧
    (stepped s).scause.toNat = 0x80000009 ∧ (m 0 0x80000100).nextInterrupt = none := by decide +kernel

/-- Fences and `wfi` go on (T228, T230). -/
theorem test_goes_on :
    let pc (b : Bits) := (does b (hart (withXlen .rv32) [])).pc.toNat
    pc (.long 0x0ff0000f#32) = 0x1004 ∧ pc (.long 0x0000100f#32) = 0x1004 ∧ pc (.long 0x10500073#32) = 0x1004 ∧
    pc (.long 0x12000073#32) = 0x1004 := by decide +kernel

/-- Translation: Sv32 T1001's tables with the leaves of T1015, T1016, T1024, T1026, T1027. -/
theorem test_sv32 :
    let s (p : Priv) (hw : Bool) (pte : Nat) : State :=
      withMem 0x10004 4 0x4401 (withMem 0x11008 4 pte
        { hart { withXlen .rv32 with pmpCount := 0, pteAdHw := hw } [] with priv := p, satp := 0x80000010#64 })
    let mega (pte : Nat) : State :=
      withMem 0x10004 4 pte { hart { withXlen .rv32 with pmpCount := 0 } [] with priv := .u, satp := 0x80000010#64 }
    let goes (s : State) (t : Access) : Nat ⊕ Trap :=
      match s.translate s.priv t 0x402abc#64 with
      | .ok (_, pa) => .inl pa
      | .error e => .inr e
    goes (s .s false 0x048d14c7) .load = .inl 0x12345abc ∧
    goes (s .s false 0x048d14d7) .load = .inr ⟨.loadPageFault, 0x402abc⟩ ∧
    goes (s .u true 0x048d1417) .store = .inl 0x12345abc ∧ goes (mega 0x300000df) .load = .inl 0xc0002abc ∧
    goes (mega 0x300004df) .load = .inr ⟨.loadPageFault, 0x402abc⟩ := by decide +kernel

/-- Translation: Sv39, T1032, T1034, T1037, T1039. -/
theorem test_sv39 :
    let s (m : List (Nat × Nat)) : State :=
      m.foldl (fun s p => withMem p.1 8 p.2 s)
        { hart { withXlen .rv64 with pmpCount := 0 } [] with priv := .u, satp := 0x8000000000000010#64 }
    let goes (s : State) (va : Word) : Nat ⊕ Trap :=
      match s.translate s.priv .load va with
      | .ok (_, pa) => .inl pa
      | .error e => .inr e
    goes (s [(0x10010, 0x4401), (0x11010, 0x4801), (0x12010, 0x48d159e24d7)]) 0x80402abc = .inl 0x123456789abc ∧
    goes (s [(0x10010, 0x4401), (0x11010, 0x20000000d7)]) 0x80402abc = .inl 0x8000002abc ∧
    goes (s [(0x10010, 0x500800d7)]) 0x80402abc = .inr ⟨.loadPageFault, 0x80402abc⟩ ∧
    goes (s []) 0x4000000000 = .inr ⟨.loadPageFault, 0x4000000000⟩ := by decide +kernel

/-- Physical memory protection: T1101, T1104, T1106, T1108, T1111, T1112, T1124. -/
theorem test_pmp :
    let s (cfg1 : BitVec 8) : State :=
      { hart (withXlen .rv64) [] with
        pmpcfg := (Vector.replicate 16 0).set 1 cfg1
        pmpaddr := ((Vector.replicate 16 0).set 0 0x4000).set 1 0x8000 }
    (s 0x0b).pmpOk 0x10000 4 .load .u = true ∧ (s 0x09).pmpOk 0x10000 4 .store .u = false ∧
    (s 0x09).pmpOk 0x10000 4 .amo .u = false ∧ (s 0x0b).pmpOk 0x20000 4 .load .u = false ∧
    (s 0x08).pmpOk 0x10000 4 .store .m = true ∧ (s 0x88).pmpOk 0x10000 4 .store .m = false ∧
    (s 0x00).pmpOk 0x10000 4 .load .u = false := by decide +kernel

/-- The vector program of 46_v.md: two registers of doubles configured, `vl` set, and a multiply-add of elements. -/
theorem test_vector :
    let after (r : Result) : State :=
      match r with
      | .next t => t
      | .fault _ => State.reset
      | .refused _ => State.reset
    let s := after (execV (.vsetdcfg 5) (hart Config.default [(5, 2 * 2 ^ 25), (10, 100)]))
    let t := after (execV (.setvl 6 10) s)
    let u := after (execV (.vfmadd 0 (.vvv 0 1 1) .all)
      { t with vl := 1, vregs := (t.vregs.set 0 [(0, 0x4000000000000000#64)]).set 1 [(0, 0x4008000000000000#64)] })
    s.mvl = 64 ∧ t.vl = 64 ∧ t.ux 6 = 64 ∧ (u.elem 0 0).toNat = 0x4022000000000000 := by decide +kernel

/-- The state after a vector instruction; a reset state where it has none. -/
def ranV (i : VInstr) (s : State) : State :=
  match execV i s with
  | .next t => t
  | .fault _ => State.reset
  | .refused _ => State.reset

/-- A hart with v0 and v1 of type F64, v2 of type X64, vp0 enabled, `vl` = 4. -/
def vecHart (v0 v1 v2 : List (Nat × Word)) : State :=
  { State.reset with
    vtype := (((Vector.replicate 32 0).set 0 0b01111#5).set 1 0b01111#5).set 2 0b10111#5
    vpOn := Vector.replicate 8 true, vl := 4
    vregs := (((Vector.replicate 32 []).set 0 v0).set 1 v1).set 2 v2 }

/-- 46_v.md rule R573's example: a vector of doubles times a single-precision scalar, 3.0 × 2.0f; and a double scalar. -/
theorem test_vector_scalar :
    let s := vecHart [] [(0, 0x4008000000000000#64)] []
    ((ranV (.vmul 0 (.vs 1 (.f 5)) .all) (s.setF 5 0xffffffff40000000#64)).elem 0 0).toNat = 0x4018000000000000 ∧
    ((ranV (.vmul 0 (.vs 1 (.f 5)) .all) (s.setF 5 0x4000000000000000#64)).elem 0 0).toNat = 0x4018000000000000 := by
  decide +kernel

/-- `vselect`'s example (rule R1053) cut to `vl` = 4: {8, 0, 3, −1} takes v1[0] and v1[3], and leaves the elements whose
index is `vl` or more or negative (D29). -/
theorem test_vselect :
    let s := vecHart [(0, 7), (3, 9)] [(0, 1), (3, 4)] [(0, 8), (2, 3), (3, -1)]
    let t := ranV (.vselect 0 (.vv 1 2) .all) s
    (t.elem 0 0, t.elem 0 1, t.elem 0 2, t.elem 0 3) = (7, 1, 4, 9) := by decide +kernel

/-- `vmerge`'s example (rule R1052), on doubles' bits: vp0 = {1, 0, 0, 1}; and with a scalar in place of v2. -/
theorem test_vmerge :
    let s := { vecHart [] [(0, 1), (1, 2), (2, 3), (3, 4)] [] with
      vregs := (((Vector.replicate 32 []).set 1 [(0, 1), (1, 2), (2, 3), (3, 4)]).set 3 [(0, 10), (1, 20), (2, 30), (3, 40)])
      vtype := Vector.replicate 32 0b10111#5
      vp := (Vector.replicate 8 []).set 0 [(0, true), (3, true)] }
    let view (t : State) := (t.elem 0 0, t.elem 0 1, t.elem 0 2, t.elem 0 3)
    view (ranV (.vmerge .vp0 0 (.vv 1 3)) s) = (10, 2, 3, 40) ∧
    view (ranV (.vmerge .vp0 0 (.vs 1 (.x 5))) (s.setX 5 50)) = (50, 2, 3, 50) := by decide +kernel

/-- A type that the implementation does not support is illegal to use (rule R574 item h). -/
theorem test_vtypes :
    let s := vecHart [] [] []
    let t : State := { s with cfg := { s.cfg with vtypes := [0b10111#5] } }
    (ranV (.vadd 0 (.vv 1 1) .all) s).mcause = 0 ∧ (ranV (.vadd 0 (.vv 1 1) .all) t).mcause = 2 := by decide +kernel

/-- With F, the 16-bit and 32-bit floating-point types are supported whatever else is (10_state.md rule R64). -/
theorem test_vtypes_mandatory :
    let c (f : Bool) : Config := { Config.default with vtypes := [], ext := { Config.default.ext with f := f, d := f } }
    (supportedType (c true) 0b01101#5).isSome = true ∧ (supportedType (c true) 0b01110#5).isSome = true ∧
    supportedType (c true) 0b01111#5 = none ∧ supportedType (c false) 0b01110#5 = none := by decide +kernel

/-- In a device region a page table and a fetch are refused (20_memory.md rule R113, D19); a store changes no memory and a
load goes on (log 6). -/
theorem test_device_region :
    let c : Config := { Config.default with
      pmpCount := 0, memoryMap := [⟨0x10000, 0x1000, .device true true⟩, ⟨0, 2 ^ 64, .memory true true true⟩] }
    let s : State := withMem 0x10000 8 0xdf { hart c [] with priv := .u, satp := 0x8000000000000010#64 }
    let d : State := { hart c [] with pc := 0x10000#64 }
    let at_ : State := hart c [(5, 0x10000)]
    (match s.translate .u .load 0 with
      | .ok _ => none
      | .error e => some e.exc) = some .loadAccessFault ∧
    (stepped d).mcause = 1 ∧
    ((ran (.sw 5 5 0) at_).pc, (ran (.sw 5 5 0) at_).mem) = (0x1004#64, []) ∧
    ((ran (.lw 6 5 0) at_).pc, (ran (.lw 6 5 0) at_).free) = (0x1004#64, 1) := by decide +kernel

/-! ## States and operands that meet the hypotheses of the statements

`witness_X` is for the statement `Obligations.X`. -/

/-- The state after reset with this instruction where the next step fetches. -/
def loaded (w : Nat) : State := State.reset.withFetchWord 32 w

/-- The mode is this one; nothing is translated or protected. -/
def inMode (p : Priv) (c : Config) (xs : List (Reg × Nat)) : State :=
  { hart { c with pmpCount := 0 } xs with priv := p }

/-- A bare hart of each width, and one in user mode. -/
def rv64Hart : State := hart Config.default []
def rv32Hart : State := hart (withXlen .rv32) []
def userHart : State := inMode .u Config.default []

theorem reset_takes_none : ∀ j, ¬ State.reset.Takes j := by
  intro j; cases j <;> (unfold State.Takes; decide +kernel)

theorem loaded_takes_none : ∀ j, ¬ (loaded 0x00c58533).Takes j := by
  intro j; cases j <;> (unfold State.Takes; decide +kernel)

theorem witness_DecodeEncode :
    (Instr.srai 31 1 63).wf Config.default.xlen = true ∧ (Instr.srai 31 1 63).extOk Config.default = true := by decide

theorem witness_EncodeDecode : decode Config.default (.short 0x8636#16) = .ok (.cMv 12 13) := by decide

theorem witness_StepRunsDecoded :
    (loaded 0x00c58533).waiting = false ∧ (∀ j, ¬ (loaded 0x00c58533).Takes j) ∧
    (loaded 0x00c58533).fetch = .ok (loaded 0x00c58533, .long 0x00c58533#32) ∧
    decode (loaded 0x00c58533).cfg (.long 0x00c58533#32) = .ok (.add 10 11 12) ∧
    exec (.add 10 11 12) (loaded 0x00c58533) = .next (ran (.add 10 11 12) (loaded 0x00c58533)) ∧
    (loaded 0x00c58533).inputs = [] :=
  ⟨by decide +kernel, loaded_takes_none, by decide +kernel, by decide +kernel, rfl, by decide +kernel⟩

/-- A hart with paging on in this mode, its root table at 0x2000, these entries in memory, and the first 16 MiB below
supervisor mode's writes guarded or not. -/
def paged (x : Xlen) (p : Priv) (hw guarded : Bool) (es : List (Nat × Nat)) : State :=
  let c : Config := { withXlen x with pteAdHw := hw }
  let s : State :=
    { hart c [] with
      priv := p
      satp := match x with
        | .rv32 => 0x80000002#64
        | .rv64 => 0x8000000000000002#64
      pmpcfg := Vector.replicate 16 (if guarded then 0x0d#8 else 0x0f#8)
      pmpaddr := Vector.replicate 16 0x400000#64 }
  es.foldl (fun s e => withMem e.1 (pteSize x) e.2 s) s

/-- User mode under Sv39, with two pages mapped that follow one another in virtual memory and not in physical memory:
0x0 at 0x5000, and 0x1000 at 0x9000, whose accessed and dirty bits are not set. -/
def userPages : State :=
  paged .rv64 .u true false [(0x2000, 0xc01), (0x3000, 0x1001), (0x4000, 0x14df), (0x4008, 0x241f)]

/-- The translation of one address, made in the hart's mode, or its exception. -/
def looksUp (s : State) (t : Access) (a : Nat) : Except Trap (State × Nat) := s.translate s.priv t (BitVec.ofNat 64 a)

/-- The fetch's clauses where addresses are physical: a 16-bit instruction, a 32-bit one, and one whose second parcel is
not executable. Under paging: a 32-bit instruction over two pages, whose second entry the fetch updates; no page at the
first parcel, at the second; and a page whose memory is not there, at the first, at the second. -/
theorem witness_FetchReadsParcels :
    let edge : State :=
      withMem 0x1000 2 0x8533 (hart { Config.default with memoryMap := [⟨0, 0x1002, .memory true true true⟩] } [])
    let good (s : State) : Prop :=
      s.PcLegal ∧ s.Untranslated ∧ s.staleFetch = [] ∧ s.physOk s.upc 2 .fetch s.priv = true
    good State.reset ∧ (parcelOf (State.reset.mem.read 0) (State.reset.mem.read 1)).toNat % 4 ≠ 3 ∧
    good (loaded 0x00c58533) ∧
    (parcelOf ((loaded 0x00c58533).mem.read 0) ((loaded 0x00c58533).mem.read 1)).toNat % 4 = 3 ∧
    (loaded 0x00c58533).physOk ((loaded 0x00c58533).fromPc 2) 2 .fetch (loaded 0x00c58533).priv = true ∧
    good edge ∧ (parcelOf (edge.mem.read 0x1000) (edge.mem.read 0x1001)).toNat % 4 = 3 ∧
    edge.physOk (edge.fromPc 2) 2 .fetch edge.priv = false ∧
    (let at_ (pc : Word) (s : State) : State := { withMem 0x9ffe 2 3 (withMem 0x5ffe 2 3 s) with pc := pc }
     let near (s : State) : State := { s with cfg := { s.cfg with memoryMap := [⟨0, 0x9000, .memory true true true⟩] } }
     let first (s : State) : Option (State × Nat) := (looksUp s .fetch s.upc).toOption
     let second (s : State) : Option (Except Trap (State × Nat)) :=
       (first s).map fun r => r.1.translate s.priv .fetch (BitVec.ofNat 64 (s.fromPc 2))
     let across := at_ 0xffe userPages
     let last := at_ 0x1ffe userPages
     (across.PcLegal ∧ (first across).map (·.2) = some 0x5ffe ∧ (second across).map (·.toOption.map (·.2)) = some (some 0x9000)) ∧
     looksUp (at_ 0x2000 userPages) .fetch 0x2000 = .error ⟨.instrPageFault, 0x2000⟩ ∧
     ((first last).map (·.2) = some 0x9ffe ∧ second last = some (.error ⟨.instrPageFault, 0x2000⟩)) ∧
     ((first (near last)).map (fun r => r.1.physOk r.2 2 .fetch .u) = some false ∧
      (first (near across)).map (fun r => r.1.physOk r.2 2 .fetch .u) = some true ∧
      (second (near across)).map (·.toOption.map (fun r => r.1.physOk r.2 2 .fetch .u)) = some (some false))) := by
  unfold State.PcLegal State.Untranslated; decide +kernel

/-- A fetch where there is no memory, and bits that are no instruction. -/
theorem witness_FetchFaultsTrap :
    let empty : State := hart { Config.default with memoryMap := [] } []
    (empty.waiting = false ∧ (∀ j, ¬ empty.Takes j) ∧ empty.fetch = .error ⟨.instrAccessFault, 0x1000⟩) ∧
    (State.reset.waiting = false ∧ (∀ j, ¬ State.reset.Takes j) ∧ State.reset.fetch = .ok (State.reset, .short 0#16) ∧
      decode State.reset.cfg (.short 0#16) = .error .operand) := by
  refine ⟨⟨by decide +kernel, ?_, by decide +kernel⟩, by decide +kernel, reset_takes_none, by decide +kernel,
    by decide +kernel⟩
  intro j; cases j <;> (unfold State.Takes; decide +kernel)

/-- A branch taken to an aligned target, to one that is not (a hart without C), and not taken. -/
theorem witness_Branches :
    let noC : State := hart { Config.default with ext := { Config.default.ext with c := false } } []
    let s : State := hart Config.default [(5, 1)]
    (s.ux 0 = s.ux 0 ∧ s.fromPc ((0x800#12 : BitVec 12).toInt * 2) % s.ialign = 0) ∧
    (noC.ux 0 = noC.ux 0 ∧ noC.fromPc ((1#12 : BitVec 12).toInt * 2) % noC.ialign ≠ 0) ∧ ¬ (s.ux 5 = s.ux 0) := by
  decide +kernel

theorem witness_Jumps :
    let noC : State := hart { Config.default with ext := { Config.default.ext with c := false } } [(5, 0x2002)]
    noC.fromPc ((2#20 : BitVec 20).toInt * 2) % noC.ialign = 0 ∧ noC.eaOf 5 (0#12 : BitVec 12).toInt / 2 * 2 % noC.ialign ≠ 0 := by
  decide +kernel

/-- The state after the translation, and the physical addresses, of an access that is to bytes of main memory. -/
def foundAt (s : State) (t : Access) (a n : Nat) : Option (State × List Nat) :=
  match s.locate t (BitVec.ofNat 64 a) n with
  | .error _ => none
  | .ok (u, p) => if decide (0 < n ∧ a < 2 ^ s.width) && (p.addrs n).all (!deviceAt s.cfg ·) then some (u, p.addrs n) else none

/-- The access is found in main memory. -/
def IsFound (s : State) (t : Access) (a n : Nat) : Prop := ∃ u at_, s.Found t a n u at_

theorem found_of_foundAt {s u : State} {t : Access} {a n : Nat} {l : List Nat} (h : foundAt s t a n = some (u, l)) :
    s.Found t a n u (fun k => l.getD k 0) := by
  unfold foundAt at h
  split at h
  · cases h
  · rename_i v p hl
    split at h
    · rename_i hc
      simp only [Bool.and_eq_true, decide_eq_true_eq, List.all_eq_true, Bool.not_eq_true'] at hc
      cases h
      exact State.found_of_locate hc.1.1 hc.1.2 hl hc.2
    · cases h

theorem isFound {s : State} {t : Access} {a n : Nat} (h : (foundAt s t a n).isSome = true) : IsFound s t a n := by
  obtain ⟨⟨u, l⟩, hu⟩ := Option.isSome_iff_exists.mp h
  exact ⟨u, _, found_of_foundAt hu⟩

/-- Each size at the end of a page and, misaligned, over it; both at the top of an RV32 address space; and both under
paging. -/
theorem witness_IntegerLoads :
    (∀ p ∈ [(0x1fff, 1), (0x1ffe, 2), (0x1ffc, 4), (0x1ff8, 8), (0x1fff, 2), (0x1ffd, 4), (0x1ff9, 8)],
      IsFound rv64Hart .load p.1 p.2) ∧
    (∀ p ∈ [(0xfffffffc, 4), (0xffffffff, 4)], IsFound rv32Hart .load p.1 p.2) ∧
    (∀ p ∈ [(0xfff, 1), (0xffc, 4), (0x1000, 8), (0xfff, 2), (0xffd, 4), (0xff9, 8)], IsFound userPages .load p.1 p.2) := by
  refine ⟨fun p hp => isFound ?_, fun p hp => isFound ?_, fun p hp => isFound ?_⟩ <;> revert p <;> decide +kernel

/-- As for the loads; and under paging the bytes of a store over the two pages are where the tables say, with the entry
of the second page updated. -/
theorem witness_IntegerStores :
    (∀ p ∈ [(0x1fff, 1), (0x1ffe, 2), (0x1ffc, 4), (0x1ff8, 8), (0x1fff, 2), (0x1ffd, 4), (0x1ff9, 8)],
      IsFound userHart .store p.1 p.2) ∧
    (∀ p ∈ [(0xfffffffc, 4), (0xffffffff, 4)], IsFound rv32Hart .store p.1 p.2) ∧
    (∀ p ∈ [(0xfff, 1), (0xffc, 4), (0x1000, 8), (0xfff, 2), (0xffd, 4), (0xff9, 8)], IsFound userPages .store p.1 p.2) ∧
    (foundAt userPages .store 0xffe 4).map (fun r => (r.2, memAt r.1 0x4008 8)) =
      some ([0x5ffe, 0x5fff, 0x9000, 0x9001], 0x24df) := by
  refine ⟨fun p hp => isFound ?_, fun p hp => isFound ?_, fun p hp => isFound ?_, by decide +kernel⟩ <;>
    revert p <;> decide +kernel

theorem witness_FloatLoadsStores :
    let s := hart Config.default [(2, 0x2000)]
    s.cfg.ext.d = true ∧
    (∀ n ∈ [4, 8], IsFound s .load (s.eaOf 2 (63 * n : Nat)) n ∧ IsFound s .store (s.eaOf 2 (63 * n : Nat)) n) ∧
    IsFound userPages .load 0x1000 8 ∧ IsFound userPages .store 0x1000 8 := by
  refine ⟨by decide +kernel, fun n hn => ⟨isFound ?_, isFound ?_⟩, isFound (by decide +kernel), isFound (by decide +kernel)⟩ <;>
    revert n <;> decide +kernel

theorem witness_AtomicOperations :
    let s := hart Config.default [(5, 0x2004), (6, 0x2008)]
    IsFound s .amo (s.ux 5) 4 ∧ (s.cfg.xlen = .rv64 ∧ IsFound s .amo (s.ux 6) 8) ∧
    IsFound userPages .amo 0xffc 4 ∧ (userPages.cfg.xlen = .rv64 ∧ IsFound userPages .amo 0x1000 8) :=
  ⟨isFound (by decide +kernel), ⟨by decide +kernel, isFound (by decide +kernel)⟩, isFound (by decide +kernel),
    by decide +kernel, isFound (by decide +kernel)⟩

/-- The access is found, and after the translation the reservation is held, or is not, for its bytes. -/
def FoundHolding (s : State) (a n : Nat) (held : Bool) : Prop :=
  ∃ u at_, s.Found .storeConditional a n u at_ ∧ decide (u.reservation = some ⟨at_ 0, n⟩) = held

theorem foundHolding {s : State} {a n : Nat} {held : Bool}
    (h : (foundAt s .storeConditional a n).map (fun r => decide (r.1.reservation = some ⟨r.2.getD 0 0, n⟩)) = some held) :
    FoundHolding s a n held := by
  obtain ⟨⟨u, l⟩, hu, hh⟩ := Option.map_eq_some_iff.mp h
  exact ⟨u, _, found_of_foundAt hu, hh⟩

/-- With the reservation held and not held, with spurious failures allowed and not; and under paging, where the
reservation is of the physical bytes, and one on the page-table entry that the translation updates is gone. -/
theorem witness_LoadReservedStoreConditional :
    let s := hart Config.default [(5, 0x2004), (6, 0x2008)]
    let held : State := { s with reservation := some ⟨0x2004, 4⟩ }
    let spurious : State := { held with cfg := { s.cfg with scSpuriousFail := true } }
    let pagedHeld : State := { userPages with reservation := some ⟨0x9000, 8⟩ }
    let onEntry : State := { userPages with reservation := some ⟨0x4008, 8⟩ }
    (s.cfg.xlen = .rv64 ∧ pagedHeld.cfg.xlen = .rv64 ∧ held.cfg.scSpuriousFail = false ∧ spurious.cfg.scSpuriousFail = true) ∧
    (IsFound s .loadReserved (s.ux 5) 4 ∧ IsFound s .loadReserved (s.ux 6) 8 ∧ IsFound userPages .loadReserved 0x1000 8) ∧
    (FoundHolding held (held.ux 5) 4 true ∧ FoundHolding held (held.ux 6) 8 false) ∧
    (FoundHolding spurious (spurious.ux 5) 4 true ∧ FoundHolding spurious (spurious.ux 6) 8 false) ∧
    (FoundHolding pagedHeld 0x1000 8 true ∧ FoundHolding pagedHeld 0x1000 4 false) ∧
    ((foundAt onEntry .storeConditional 0x1000 8).map (fun r => r.1.reservation) = some none) := by
  refine ⟨by decide +kernel, ⟨isFound ?_, isFound ?_, isFound ?_⟩, ⟨foundHolding ?_, foundHolding ?_⟩,
    ⟨foundHolding ?_, foundHolding ?_⟩, ⟨foundHolding ?_, foundHolding ?_⟩, ?_⟩ <;> decide +kernel

theorem witness_MisalignedAtomicsRaise :
    (hart Config.default [(5, 0x2002)]).ux 5 % 4 ≠ 0 ∧ (hart Config.default [(5, 0x2004)]).ux 5 % 8 ≠ 0 := by decide +kernel

theorem witness_MisalignedAccessesRaise :
    let s := hart { Config.default with misalignedOk := false } [(5, 0x2000), (9, 0x2001), (2, 0x2001)]
    s.cfg.misalignedOk = false ∧ s.eaOf 5 (1#12 : BitVec 12).toInt % 2 ≠ 0 ∧
    s.eaOf 5 (2#12 : BitVec 12).toInt % 4 ≠ 0 ∧ s.eaOf 5 (4#12 : BitVec 12).toInt % 8 ≠ 0 ∧
    (∀ n ∈ [4, 8], s.eaOf (1 : CReg).reg (31 * n : Nat) % n ≠ 0 ∧ s.eaOf 2 (63 * n : Nat) % n ≠ 0) := by decide +kernel

/-- User mode with every PMP entry off can access nothing, at each size; at the end of memory a misaligned access fails
at its second byte; and under paging, one page not mapped and one whose table is not in memory, alone and as the second
page of a misaligned access. -/
theorem witness_AccessFaultsRaise :
    let s : State := { hart Config.default [(5, 0x2000)] with priv := .u }
    let edge : State :=
      hart { Config.default with memoryMap := [⟨0, 0x2000, .memory true true true⟩] } [(5, 0x1fff)]
    let noTable : State :=
      { paged .rv64 .u true false [(0x2000, 0xc01), (0x3000, 0x1001), (0x4ff8, 0x14df), (0x3008, 0x100000000001)] with
        cfg := { Config.default with memoryMap := [⟨0, 0x10000, .memory true true true⟩] } }
    let all := [Access.load, .store, .loadReserved, .storeConditional, .amo]
    (∀ n ∈ [1, 2, 4, 8], s.eaOf 5 0 % n = 0 ∧ s.ux 5 % n = 0 ∧
        ∀ t ∈ all, looksUp s t (s.eaOf 5 0) = .ok (s, 0x2000) ∧ s.physOk 0x2000 n t s.priv = false) ∧
    (edge.cfg.misalignedOk = true ∧ ∀ t ∈ [Access.load, .store], t.atomic = false ∧ edge.eaOf 5 0 % 8 ≠ 0 ∧
      edge.FoundBytes t (edge.eaOf 5 0) (fun _ => 0x1fff) 1 edge ∧
      looksUp edge t (edge.byteAddr (edge.eaOf 5 0) 1) = .ok (edge, 0x2000) ∧ edge.physOk 0x2000 1 t edge.priv = false) ∧
    (∀ t ∈ all, looksUp userPages t 0x2000 = .error ⟨t.pageFault, 0x2000⟩ ∧
      looksUp noTable t 0x200000 = .error ⟨t.accessFault, 0x200000⟩) ∧
    (∀ t ∈ [Access.load, .store], noTable.FoundBytes t 0x1fffff (fun _ => 0x5fff) 1 noTable ∧
      looksUp noTable t (noTable.byteAddr 0x1fffff 1) = .error ⟨t.accessFault, 0x200000⟩) := by
  refine ⟨by decide +kernel, ⟨by decide +kernel, ?_⟩, by decide +kernel, ?_⟩
  · intro t ht
    refine ⟨?_, ?_, ⟨_, rfl, ?_, ?_⟩, ?_, ?_⟩ <;> revert t <;> decide +kernel
  · intro t ht
    refine ⟨⟨_, rfl, ?_, ?_⟩, ?_⟩ <;> revert t <;> decide +kernel

/-- Entry 1 decides the last word of its range and the word that straddles its end; nothing decides the word after. -/
theorem witness_PmpCheck :
    let s : State :=
      { hart Config.default [] with
        pmpcfg := (Vector.replicate 16 0).set 1 0x0b#8
        pmpaddr := ((Vector.replicate 16 0).set 0 0x4000).set 1 0x8000 }
    let on (j : Nat) : Prop := j < s.cfg.pmpEntries ∧ (s.pmpCfgAt j).toNat / 8 % 4 = 1
    let holds (j b : Nat) : Prop := (if j = 0 then 0 else s.pmpAddrAt (j - 1)) ≤ b / 4 ∧ b / 4 < s.pmpAddrAt j
    let meets (j pa n : Nat) : Prop := ∃ k, k < n ∧ holds j (pa + k)
    (on 1 ∧ meets 1 0x1fffc 4 ∧ ∀ i, i < 1 → on i → ¬ meets i 0x1fffc 4) ∧
    (on 1 ∧ meets 1 0x1fffe 4 ∧ ∀ i, i < 1 → on i → ¬ meets i 0x1fffe 4) ∧
    (∀ j, j < 16 → on j → ¬ meets j 0x20000 4) := by
  decide +kernel

/-- The premises about the state. -/
def pagedOk (s : State) (p : Priv) : Bool :=
  s.cfg.modes.hasS && p != .m && s.satp.toNat / 2 ^ (if s.cfg.xlen = .rv32 then 31 else 60) % 16 ==
    (if s.cfg.xlen = .rv32 then 1 else 8) && decide (s.satp.toNat < 2 ^ s.cfg.xlen.bits) && s.tlb == [] && !s.cfg.tlbCaches

/-- Sv39: leaves at level 0 (allowed; not valid; writable and not readable; not for user mode; not yet accessed), a
pointer at level 0, a superpage at level 1 whose number is aligned and one whose is not, and an address that is not
canonical; Sv32: the same superpage cases at its top level. -/
theorem witness_PageTableWalk :
    let s39 (hw guarded : Bool) (leaf : Nat) := paged .rv64 .u hw guarded [(0x2000, 0xc01), (0x3000, 0x1001), (0x4000, leaf)]
    let s32 (leaf : Nat) := paged .rv32 .s true false [(0x2000, leaf)]
    let big (leaf : Nat) := paged .rv64 .u false false [(0x2000, 0xc01), (0x3000, leaf)]
    (∀ leaf ∈ [0x2cdf, 0x2cde, 0x2cdd, 0x2ccf, 0x2c1f, 0x2c01], ∀ hw ∈ [true, false],
      let s := s39 hw false leaf
      pagedOk s .u = true ∧ s.pteRead 0x2000 = some 0xc01 ∧ s.pteRead 0x3000 = some 0x1001 ∧
      s.pteRead 0x4000 = some (BitVec.ofNat 64 leaf)) ∧
    ((s39 true true 0x2c1f).pteRead 0x4000 = some 0x2c1f ∧ (s39 true true 0x2c1f).physOk 0x4000 8 .store .s = false ∧
      (s39 true false 0x2c1f).physOk 0x4000 8 .store .s = true) ∧
    (∀ leaf ∈ [0x800df, 0x804df], pagedOk (big leaf) .u = true ∧ (big leaf).pteRead 0x3000 = some (BitVec.ofNat 64 leaf)) ∧
    (∀ leaf ∈ [0x100000c7, 0x100004c7, 0x10000007],
      pagedOk (s32 leaf) .s = true ∧ (s32 leaf).pteRead 0x2000 = some (BitVec.ofNat 64 leaf)) ∧
    ((∀ k ∈ [0, 1, 4, 6, 7], (0x2cdf#64).getLsbD k = true) ∧ (0x2cde#64).getLsbD 0 = false ∧
      ((0x2cdd#64).getLsbD 1 = false ∧ (0x2cdd#64).getLsbD 2 = true) ∧ (0x2ccf#64).getLsbD 4 = false ∧
      ((∀ k ∈ [0, 1, 4], (0x2c1f#64).getLsbD k = true) ∧ (0x2c1f#64).getLsbD 6 = false) ∧
      ((0x2c01#64).getLsbD 1 = false ∧ (0x2c01#64).getLsbD 3 = false)) ∧
    (0x800df / 2 ^ 10 % 2 ^ 9 = 0 ∧ 0x804df / 2 ^ 10 % 2 ^ 9 ≠ 0) ∧
    (0x100000c7 / 2 ^ 10 % 2 ^ 10 = 0 ∧ 0x100004c7 / 2 ^ 10 % 2 ^ 10 ≠ 0 ∧ (0x10000007#64).getLsbD 6 = false) ∧
    ({ paged .rv64 .u false false [] with cfg := { Config.default with memoryMap := [] } } : State).pteRead 0x2000 = none ∧
    ¬ ((0x4000000000#64 : Word).toNat < 2 ^ 38 ∨ 2 ^ 64 - 2 ^ 38 ≤ (0x4000000000#64 : Word).toNat) := by
  decide +kernel

/-- The hart of `paged` with two cached translations, the first of another page, the second of the page at 0x5000. -/
def cachedHart (leaf : Word) : State :=
  { paged .rv64 .u false false [(0x2000, 0xc01), (0x3000, 0x1001), (0x4000, 0x2cdf)] with
    tlb := [⟨0x1000, 0, 0, 0x2cdf⟩, ⟨0x5000, 0, 0, leaf⟩], cfg := { Config.default with tlbCaches := true } }

/-- With translations cached: an allowed leaf, one that is not for user mode, and an address that no entry covers. -/
theorem witness_PageTableWalk_cached :
    (∀ leaf, (cachedHart leaf).tlb = [⟨0x1000, 0, 0, 0x2cdf⟩, ⟨0x5000, 0, 0, leaf⟩]) ∧
    (cachedHart 0x2cdf).cfg.tlbCaches = true ∧
    (satpAsid .rv64 (cachedHart 0x2cdf).satp = 0 ∧ satpAsid .rv64 (cachedHart 0x2ccf).satp = 0) ∧
    (∀ k ∈ [6, 7], (0x2cdf#64).getLsbD k = true ∧ (0x2ccf#64).getLsbD k = true) ∧
    (0x5008 / 2 ^ 12 ≠ 0x1000 / 2 ^ 12 ∧ 0x5008 / 2 ^ 12 = 0x5000 / 2 ^ 12) ∧
    (0x8 / 2 ^ 12 ≠ 0x1000 / 2 ^ 12 ∧ 0x8 / 2 ^ 12 ≠ 0x5000 / 2 ^ 12) :=
  ⟨fun _ => rfl, rfl, by decide +kernel, by decide +kernel, by decide, by decide⟩

/-- A hart that MEMORY_MAP gives a device at 0x3000, of which the spec says nothing. -/
def deviceHart (xs : List (Reg × Nat)) : State :=
  hart { Config.default with memoryMap := [⟨0x3000, 0x1000, .device true true⟩, ⟨0, 2 ^ 64, .memory true true true⟩] } xs

/-- Translation and PMP let the access of `n` bytes at a virtual address reach this physical one. -/
def reachesAt (s : State) (t : Access) (n va pa : Nat) : Bool :=
  va % n == 0 && (looksUp s t va).toOption.map (fun r => (r.2, r.1.pmpOk pa n t s.priv)) == some (pa, true)

/-- The page of `mtime` at virtual address 0xb000, in user mode. -/
def timerPage : State :=
  { paged .rv64 .u true false [(0x2000, 0xc01), (0x3000, 0x1001), (0x4058, 0x802cdf)] with
    pmpaddr := Vector.replicate 16 0x40000000#64, reservation := some ⟨0x0200bff8, 8⟩ }

/-- A store to `msip` of anything but bit 0 changes nothing of it (T969), and a store to the high half of `mtimecmp` on
RV32 leaves the low one (the first store of Figure 10.6; 60_exceptions.md rule R746). -/
theorem test_register_stores :
    let s : State := { hart (withXlen .rv32) [(5, 0x02000000), (6, 0x02004004), (10, 0xfffffffe), (11, 1)] with
      msip := true, mtimecmp := 0xffffff00#64 }
    (ran (.sw 10 5 0) s).msip = false ∧ (ran (.sw 11 6 0) s).mtimecmp = 0x1ffffff00#64 := by decide +kernel

/-- The addresses of the loads and stores in each form, for every register whole and in halves, in both widths; under
paging, with a reservation that a store breaks and one that it does not; and a device that the spec does not describe,
reached with physical addresses and under paging. -/
theorem witness_TimerRegisters :
    let s (x : Xlen) (pa : Nat) : State := hart (withXlen x) [(5, pa), (8, pa), (2, pa)]
    let forms (x : Xlen) (base off n : Nat) : Bool :=
      let h := s x base
      [Access.load, .store].all fun t =>
        [h.eaOf 5 off, h.eaOf (0 : CReg).reg (off / n * n : Nat), h.eaOf 2 (off / n * n : Nat)].all fun va =>
          reachesAt h t n va (base + off)
    let d : State := deviceHart [(5, 0x3ffc)]
    let e : State :=
      { userPages with cfg := { userPages.cfg with memoryMap := [⟨0x9000, 0x1000, .device true true⟩, ⟨0, 2 ^ 64, .memory true true true⟩] } }
    (RegistersApart Config.default ∧ RegistersApart (withXlen .rv32)) ∧
    (∀ x ∈ [Xlen.rv32, .rv64], ∀ f ∈ [(0x0200bff8, 0), (0x0200bff8, 4), (0x02004000, 0), (0x02004000, 4), (0x02000000, 0)],
      forms x f.1 f.2 4 = true) ∧
    (forms .rv64 0x0200bff8 0 8 = true ∧ forms .rv64 0x02004000 0 8 = true) ∧
    (RegistersApart timerPage.cfg ∧ reachesAt timerPage .load 8 0xbff8 0x0200bff8 = true ∧
      reachesAt timerPage .store 8 0xbff8 0x0200bff8 = true ∧ reachesAt timerPage .store 4 0xbffc 0x0200bffc = true ∧
      timerPage.reservation = some ⟨0x0200bff8, 8⟩ ∧ (s .rv64 0).reservation = none) ∧
    (d.ux 5 % 4 = 0 ∧ (∀ k, k < 4 → inDevice d.cfg (d.ux 5 + k) = false ∧ onDevice d.cfg (d.ux 5 + k) = true) ∧
      ∀ t ∈ [Access.load, .store], looksUp d t (d.ux 5) = .ok (d, 0x3ffc) ∧ d.physOk 0x3ffc 4 t d.priv = true) ∧
    ((∀ k, k < 4 → inDevice e.cfg (0x9000 + k) = false ∧ onDevice e.cfg (0x9000 + k) = true) ∧
      ∀ t ∈ [Access.load, .store],
        (looksUp e t 0x1000).toOption.map (fun r => (r.2, r.1.physOk 0x9000 4 t e.priv)) = some (0x9000, true)) := by
  unfold RegistersApart; decide +kernel

/-- Both sides of `sfence.vma`'s condition, with a cached translation that x0, x0 selects. -/
theorem witness_Fences :
    let s : State := { hart Config.default [] with tlb := [⟨0x1000, 0, 0, 0xcf⟩] }
    let u := inMode .u Config.default []
    (s.cfg.modes.hasS = true ∧ s.priv ≠ .u ∧ s.tlb ≠ []) ∧ ¬ (u.cfg.modes.hasS = true ∧ u.priv ≠ .u) := by decide +kernel

theorem witness_EnvironmentCalls :
    (inMode .u Config.default []).priv = .u ∧ (inMode .s Config.default []).priv = .s ∧ State.reset.priv = .m := by
  decide +kernel

/-- A delegated trap and one that is not, with the largest codes of each kind. -/
theorem witness_TrapEntry :
    (15 < 16 ∧ (trapHart .u 0x8 0xb3ff).Delegates false 15) ∧ (11 < 16 ∧ ¬ (trapHart .u 0x8 0).Delegates true 11) := by
  unfold State.Delegates; decide +kernel

theorem witness_TrapReturns :
    let m := State.reset
    let u := inMode .u Config.default []
    let s := inMode .s Config.default []
    m.priv = .m ∧ ¬ (u.priv = .m) ∧ (s.cfg.modes.hasS = true ∧ s.priv ≠ .u) ∧ ¬ (u.cfg.modes.hasS = true ∧ u.priv ≠ .u) := by
  decide +kernel

theorem witness_WaitForInterrupt :
    let c : Config := { Config.default with wfiNop := false }
    let due (s : State) (i : Intr) : Prop := (s.csrRead .mip).getLsbD i.code = true ∧ (s.csrRead .mie).getLsbD i.code = true
    let pending : State := { hart c [] with msip := true, mie := 8#64 }
    (inMode .u c []).priv = .u ∧ (State.reset.priv ≠ .u ∧ State.reset.cfg.wfiNop = true) ∧
    (pending.priv ≠ .u ∧ due pending .machineSoftware) ∧
    ((hart c []).priv ≠ .u ∧ (hart c []).cfg.wfiNop = false ∧ ∀ i, ¬ due (hart c []) i) := by
  refine ⟨by decide +kernel, by decide +kernel, by decide +kernel, by decide +kernel, by decide +kernel, ?_⟩
  intro i; cases i <;> decide +kernel

/-- A register that may be written, one that may only be read, and a number that is none; a register of a mode above. -/
theorem witness_CsrInstructions :
    let u := inMode .u Config.default []
    State.reset.MayAccess 0x340#12 true .mscratch ∧ State.reset.MayAccess 0xc00#12 false .cycle ∧
    (∀ r, ¬ State.reset.MayAccess 0xc00#12 true r) ∧ (∀ r, ¬ State.reset.MayAccess 0x7c0#12 false r) ∧
    (∀ r, ¬ u.MayAccess 0x340#12 false r) := by
  refine ⟨by unfold State.MayAccess; decide +kernel, by unfold State.MayAccess; decide +kernel, ?_, ?_, ?_⟩
  · rintro r ⟨-, -, h⟩
    exact h rfl (by decide)
  · rintro r ⟨h, -⟩
    have e : csrOf State.reset.cfg 0x7c0#12 = none := by decide +kernel
    rw [e] at h; cases h
  · rintro r ⟨-, h, -⟩
    revert h
    decide +kernel

/-- Each kind of value that `mtvec` and `satp` treat apart, at its boundary; RV32; supervisor mode; a locked PMP entry, its
neighbour below, and one that is free. -/
theorem witness_CsrReadBack :
    let s := hart Config.default []
    let wide := hart { Config.default with asidBits := 16 } []
    let base := hart { Config.default with vectored := false } []
    let low (s : State) (v : Word) : Nat := v.toNat % 2 ^ s.width
    (low s 5 % 4 = 1 ∧ s.cfg.vectored = true) ∧
    ¬ (low base 1 % 4 = 0 ∨ (low base 1 % 4 = 1 ∧ base.cfg.vectored = true)) ∧
    ¬ (low s 2 % 4 = 0 ∨ (low s 2 % 4 = 1 ∧ s.cfg.vectored = true)) ∧
    (s.cfg.xlen = .rv64 ∧ low s 0x9000000000000000 / 2 ^ 60 ≠ 0 ∧ low s 0x9000000000000000 / 2 ^ 60 ≠ 8) ∧
    (wide.cfg.xlen = .rv64 ∧ wide.cfg.asidBits = 16 ∧ low wide 0x0fffffffffffffff / 2 ^ 60 = 0) ∧
    low wide 0x8fffffffffffffff / 2 ^ 60 = 8 ∧
    (rv32Hart.cfg.xlen = .rv32 ∧ rv32Hart.cfg.asidBits ≤ 9) ∧ s.cfg.modes.hasS = true ∧
    (let l : State := { s with pmpcfg := (Vector.replicate 16 0).set 1 0x80#8 }
     (l.pmpCfgAt 1).toNat / 128 = 1 ∧ 0 + 1 < l.cfg.pmpEntries ∧ (l.pmpCfgAt 0).toNat / 128 ≠ 1 ∧
     ¬ ((l.pmpCfgAt 15).toNat / 128 = 1 ∨ 15 + 1 < l.cfg.pmpEntries)) := by
  decide +kernel

/-- MPP given machine, supervisor and user mode, and the code 2 that is no mode. -/
theorem witness_StatusRegisters :
    let s := hart Config.default []
    s.cfg.modes.hasS = true ∧ s.cfg.modes.hasU = true ∧ (0x1800#64 : Word).toNat / 2 ^ 11 % 4 = 3 ∧
    (0x800#64 : Word).toNat / 2 ^ 11 % 4 = 1 ∧ (0#64 : Word).toNat / 2 ^ 11 % 4 = 0 ∧
    (0x1000#64 : Word).toNat / 2 ^ 11 % 4 = 2 := by decide +kernel

/-- The machine's software interrupt is taken before its timer interrupt. -/
theorem witness_InterruptTaken :
    let s : State := { inMode .u Config.default [] with mie := 0x88#64, msip := true, mtime := 1#64 }
    s.waiting = false ∧ s.Takes .machineSoftware ∧ s.Takes .machineTimer ∧
    ∀ j, s.Takes j → Intr.machineSoftware.rank ≤ j.rank := by
  refine ⟨by decide +kernel, by unfold State.Takes; decide +kernel, by unfold State.Takes; decide +kernel, ?_⟩
  intro j; cases j <;> (unfold State.Takes; decide +kernel)

/-- A static mode, the dynamic one, and the reserved ones. -/
theorem witness_FloatArithmetic :
    State.reset.cfg.ext.d = true ∧ State.reset.modeOf 4 = some .rmm ∧ State.reset.modeOf 7 = some .rne ∧
    State.reset.modeOf 5 = none ∧ ({ State.reset with fcsr := 0xa0#8 } : State).modeOf 7 = none := by decide +kernel

theorem witness_FloatSignMinCompare : State.reset.cfg.ext.d = true := by decide
theorem witness_FloatClassify : State.reset.cfg.ext.d = true := by decide
theorem witness_FloatConversions :
    State.reset.cfg.ext.d = true ∧ State.reset.modeOf 0 = some .rne ∧ State.reset.modeOf 6 = none := by decide +kernel
theorem witness_FloatMoves : State.reset.cfg.ext.d = true := by decide

theorem value_one : fmtS.value 0x3f800000 = some 1 := by
  have h : fmtS.unpack 0x3f800000 = .fin false 0x800000 (-23) := by decide +kernel
  simp only [FFmt.value, h, ratOf]
  norm_num

theorem value_zero : fmtS.value 0 = some 0 := by
  have h : fmtS.unpack 0 = .fin false 0 (-149) := by decide +kernel
  simp only [FFmt.value, h, ratOf]
  norm_num

theorem value_minus_one : fmtS.value 0xbf800000 = some (-1) := by
  have h : fmtS.unpack 0xbf800000 = .fin true 0x800000 (-23) := by decide +kernel
  simp only [FFmt.value, h, ratOf]
  norm_num

/-- 1 + 1 = 2, 1 × 1 = 1, 1 × 1 + 1 = 2, -(1 × 1) − 1 = −2; 1 − (−1) = 2 and -(1 × (−1)) + 1 = 2; 1 / 1 and √1; and the
exact zeros 1 + (−1), 1 × 1 − 1, 0 × 1, 0 / 1 and √0. -/
theorem witness_ExactThenRounded :
    fmtS ∈ floatFormats ∧ fmtS.value 0x3f800000 = some 1 ∧ fmtS.value 0xbf800000 = some (-1) ∧ fmtS.value 0 = some 0 ∧
    (1 + 1 : ℚ) = ratOf false 1 1 ∧ (1 - -1 : ℚ) = ratOf false 1 1 ∧ (1 * 1 : ℚ) = ratOf false 1 0 ∧
    (1 * 1 + 1 : ℚ) = ratOf false 1 1 ∧ (1 * -1 - 1 : ℚ) = ratOf true 1 1 ∧ (-(1 * -1) + 1 : ℚ) = ratOf false 1 1 ∧
    (-(1 * 1) - 1 : ℚ) = ratOf true 1 1 ∧ (1 : ℚ) ≠ 0 ∧ (0 : ℚ) < 1 ∧
    (1 + -1 : ℚ) = 0 ∧ (1 - 1 : ℚ) = 0 ∧ (0 * 1 : ℚ) = 0 ∧ (1 * -1 + 1 : ℚ) = 0 ∧ (1 * 1 - 1 : ℚ) = 0 ∧
    (-(1 * 1) + 1 : ℚ) = 0 ∧ (-(1 * -1) - 1 : ℚ) = 0 := by
  refine ⟨by decide, value_one, value_minus_one, value_zero, ?_, ?_, ?_, ?_, ?_, ?_, ?_, ?_, ?_, ?_, ?_, ?_, ?_, ?_, ?_, ?_⟩ <;>
    norm_num [ratOf]

theorem witness_DirectedRounding : fmtD ∈ floatFormats ∧ (1 : Nat) ≠ 0 ∧ Rm.rup ∈ [Rm.rtz, .rdn, .rup] := by decide

/-- Two ties that do not overflow: −3/2 of the least subnormal number, and 2^102 × (2^25 − 1). -/
theorem witness_RoundToNearest :
    fmtS ∈ floatFormats ∧ (3 : Nat) ≠ 0 ∧ (fmtS.round .rne true 3 (-150)).2.getLsbD 2 = false ∧
    (fmtS.round .rmm false (2 ^ 25 - 1) 102).2.getLsbD 2 = false := by decide +kernel

/-- A NaN; the least subnormal number; −∞, which has no root; and for the fused operations zero and infinity, a NaN
addend, and infinities alone and beside finite numbers. -/
theorem witness_FloatSpecialOperands :
    fmtS ∈ floatFormats ∧ fmtS.isNan 0x7f800001 = true ∧ fmtS.mag 1 ≠ 0 ∧ fmtS.mag 1 < fmtS.infBits ∧
    (fmtS.mag 0xff800000 ≠ 0 ∧ fmtS.mag 0xff800000 ≤ fmtS.infBits ∧ fmtS.isNeg 0xff800000 = true) ∧
    (fmtS.mag 0 = 0 ∧ fmtS.mag 0xff800000 = fmtS.infBits) ∧
    (fmtS.isNan 1 = false ∧ fmtS.isNan 0xff800000 = false ∧ fmtS.mag 1 ≠ fmtS.infBits) := by decide +kernel

theorem stands_one : fmtS.StandsFor 0x3f800000 1 := by
  have h : fmtS.unpack 0x3f800000 = .fin false 0x800000 (-23) := by decide +kernel
  simp only [FFmt.StandsFor, h, ratOf]
  norm_num

theorem stands_top : fmtS.StandsFor 0x7f800000 ⊤ := by
  have h : fmtS.unpack 0x7f800000 = .inf false := by decide +kernel
  simp [FFmt.StandsFor, h]

/-- 1 below infinity; a NaN beside a number. -/
theorem witness_FloatOrder :
    fmtS ∈ floatFormats ∧ fmtS.StandsFor 0x3f800000 1 ∧ fmtS.StandsFor 0x7f800000 ⊤ ∧ (1 : EReal) < ⊤ ∧
    fmtS.value 0x3f800000 = some 1 ∧ fmtS.isNan 0x7fc00000 = true ∧ fmtS.isNan 0x3f800000 = false :=
  ⟨by decide, stands_one, stands_top, EReal.coe_lt_top 1, value_one, by decide +kernel, by decide +kernel⟩

theorem witness_ConversionsRound :
    fmtS ∈ floatFormats ∧ fmtD ∈ floatFormats ∧ (-2 ^ 31 : Int) ≤ 0 ∧ (0 : Int) ≤ 2 ^ 31 - 1 ∧
    fmtS.isNan 0x7fc00000 = true ∧ fmtS.mag 0xff800000 = fmtS.infBits ∧ fmtS.value 0x3f800000 = some 1 ∧
    (1 : Int) ≠ 0 :=
  ⟨by decide, by decide, by decide, by decide, by decide +kernel, by decide +kernel, value_one, by decide⟩

theorem witness_VectorConfigure :
    let s := hart Config.default [(5, 2 * 2 ^ 25)]
    s.cfg.ext.v = true ∧ s.cfg.ext.d = true ∧ s.ux 5 = 2 * 2 ^ 25 := by decide +kernel

theorem witness_VectorSetLength : State.reset.cfg.ext.v = true := by decide

theorem witness_VectorAdd :
    let s : State := { State.reset with vtype := Vector.replicate 32 0b10100#5, vl := 3, vpOn := Vector.replicate 8 true }
    s.cfg.ext.v = true ∧ s.maskOk (.by .vp1) = true ∧ s.etype 0 = some (.signed 8) ∧ s.etype 31 = some (.signed 8) := by
  decide +kernel

/-- A step whose memory write is at the edge of the canonical form: it stores the byte an unlisted address reads as. -/
theorem witness_StepKeepsMemoryForm :
    let s := withMem 0x40 1 7 ((loaded 0x04000023))
    s.mem.wf = true ∧ step s = .next (stepped s) ∧ s.mem.read 0x40 = 7 ∧ (stepped s).mem.read 0x40 = 0 :=
  ⟨by decide +kernel, step_eq_stepped (by decide +kernel), by decide +kernel, by decide +kernel⟩

/-- `mret` at reset goes to user mode. -/
theorem witness_StepKeepsMode :
    let s := loaded 0x30200073
    s.ModeLegal ∧ step s = .next (stepped s) ∧ (stepped s).priv = .u :=
  ⟨by unfold State.ModeLegal; decide +kernel, step_eq_stepped (by decide +kernel), by decide +kernel⟩

/-- The last instruction of an RV32 address space. -/
theorem witness_StepKeepsPcAligned :
    let s : State := ({ hart (withXlen .rv32) [] with pc := 0xfffffffc#64 }).withFetchWord 32 0x13
    s.PcLegal ∧ step s = .next (stepped s) ∧ (stepped s).pc = 0 :=
  ⟨by unfold State.PcLegal; decide +kernel, step_eq_stepped (by decide +kernel), by decide +kernel⟩

/-- `csrrw x0, mtvec, x5` with the reserved mode 2. -/
theorem witness_StepKeepsCsrFields :
    let s : State := (State.reset.setX 5 0x1002#64).withFetchWord 32 0x30529073
    s.CsrLegal ∧ step s = .next (stepped s) ∧ (stepped s).mtvec = 0x1000 :=
  ⟨by unfold State.CsrLegal; decide +kernel, step_eq_stepped (by decide +kernel), by decide +kernel⟩

/-- `lr.w` at reset. -/
theorem witness_StepKeepsReservation :
    let s := loaded 0x100022af
    s.ReservationLegal ∧ step s = .next (stepped s) ∧ (stepped s).reservation = some ⟨0, 4⟩ :=
  ⟨fun v h => (by have e : (loaded 0x100022af).reservation = none := (by decide +kernel)
                  rw [e] at h; cases h), step_eq_stepped (by decide +kernel), by decide +kernel⟩

theorem witness_StepCounts :
    step State.reset = .next (stepped State.reset) ∧ State.reset.inputs = [] :=
  ⟨step_eq_stepped (by decide +kernel), by decide +kernel⟩

/-- An addition in user mode. -/
theorem witness_UserModeIsConfined :
    let s : State := (inMode .u Config.default []).withFetchWord 32 0x00c58533
    s.priv = .u ∧ step s = .next (stepped s) ∧ (stepped s).priv = .u :=
  ⟨by decide +kernel, step_eq_stepped (by decide +kernel), by decide +kernel⟩

/-- `sw x0, 64(x0)` in supervisor mode, where entry 0 lets the first 64 bytes be read and executed only and entry 1
the next 16 be written too: the store lands there, and byte 63 is guarded. -/
theorem witness_PmpGuardsMemory :
    let s : State := ({ inMode .s { Config.default with pmpCount := 16 } [] with
      pc := 0#64
      pmpcfg := ((Vector.replicate 16 0).set 0 0x0d#8).set 1 0x0f#8
      pmpaddr := ((Vector.replicate 16 0).set 0 16).set 1 20
      cfg := Config.default }).withFetchWord 32 0x04502023
    let t : State := s.setX 5 0xff#64
    t.priv ≠ .m ∧ t.inputs = [] ∧ t.pmpOk 63 1 .store .u = false ∧ step t = .next (stepped t) ∧
    (stepped t).mem.read 64 = 0xff :=
  ⟨by decide +kernel, by decide +kernel, by decide +kernel, step_eq_stepped (by decide +kernel), by decide +kernel⟩

/-- `csrrw x0, pmpcfg0, x5` with entry 0 locked and entry 1 not; `csrrw x0, pmpaddr0, x5` with entry 1 locked. -/
theorem witness_LockedPmpStays :
    let s : State := ({ hart Config.default [(5, 0x0f0f)] with
      pmpcfg := (Vector.replicate 16 0).set 0 0x80#8 }).withFetchWord 32 0x3a029073
    let u : State := ({ hart Config.default [(5, 0x0f0f)] with
      pmpcfg := (Vector.replicate 16 0).set 1 0x80#8 }).withFetchWord 32 0x3b029073
    ((s.pmpCfgAt 0).getLsbD 7 = true ∧ step s = .next (stepped s) ∧ (stepped s).pmpCfgAt 0 = 0x80 ∧
      (stepped s).pmpCfgAt 1 = 0x0f) ∧
    ((u.pmpCfgAt 1).getLsbD 7 = true ∧ 1 < u.cfg.pmpEntries ∧ step u = .next (stepped u) ∧
      (stepped u).pmpaddr = u.pmpaddr) :=
  ⟨⟨by decide +kernel, step_eq_stepped (by decide +kernel), by decide +kernel, by decide +kernel⟩,
   ⟨by decide +kernel, by decide +kernel, step_eq_stepped (by decide +kernel), by decide +kernel⟩⟩

end Sys2Proof.Tests
end

section
/-!
PROOFS. What taking a trap and raising an exception do, as `Trapped` and `Raises` say it (60_exceptions.md rules R701,
R720 to R723).
-/

namespace Sys2Proof.Machine

theorem State.delegated_iff (s : State) (isInt : Bool) (code : Nat) :
    s.delegated isInt code = true ↔ s.Delegates isInt code := by
  simp [State.delegated, State.Delegates, and_assoc]

theorem State.causeWord_toNat (s : State) (isInt : Bool) {code : Nat} (h : code < 16) :
    (causeWord s.cfg.xlen isInt code).toNat = s.causeNumber isInt code := by
  unfold causeWord State.causeNumber State.width
  rw [BitVec.toNat_ofNat]
  refine Nat.mod_eq_of_lt ?_
  rcases Xlen.bits_cases s.cfg.xlen with hw | hw <;> rw [hw] <;> cases isInt <;> simp <;> omega

/-- Clearing the mode bits of a vector register leaves its base. -/
theorem vectorBase_toNat (v : Word) : (v &&& ~~~3#64).toNat = v.toNat / 4 * 4 := by
  have hbase : v &&& ~~~3#64 = (v >>> 2) <<< 2 := by
    refine BitVec.eq_of_getLsbD_eq fun i hi => ?_
    interval_cases i <;> simp
  rw [hbase, BitVec.toNat_shiftLeft, BitVec.toNat_ushiftRight, Nat.shiftLeft_eq, Nat.shiftRight_eq_div_pow]
  have := v.isLt
  omega

/-- The low two bits of a vector register as a number. -/
theorem vectorMode_eq_one_iff (v : Word) : v.extractLsb' 0 2 = 0b01#2 ↔ v.toNat % 4 = 1 := by
  rw [← BitVec.toNat_inj, BitVec.extractLsb'_toNat]
  simp

theorem State.trapVector_toNat (s : State) (tvec : Word) (isInt : Bool) {code : Nat} (h : code < 16) :
    (trapVector s.cfg.xlen tvec isInt code).toNat = s.vectorOf tvec isInt code := by
  have hmode : (isInt && tvec.extractLsb' 0 2 == 0b01#2) = true ↔ isInt = true ∧ tvec.toNat % 4 = 1 := by
    rw [Bool.and_eq_true, beq_iff_eq, vectorMode_eq_one_iff]
  have hoff : (if isInt && tvec.extractLsb' 0 2 == 0b01#2 then BitVec.ofNat 64 (4 * code) else 0).toNat =
      if isInt = true ∧ tvec.toNat % 4 = 1 then 4 * code else 0 := by
    by_cases hv : isInt = true ∧ tvec.toNat % 4 = 1
    · rw [if_pos (hmode.mpr hv), if_pos hv, BitVec.toNat_ofNat]
      omega
    · rw [if_neg (mt hmode.mp hv), if_neg hv]
      rfl
  unfold trapVector State.vectorOf State.width
  rw [Xlen.norm_toNat, BitVec.toNat_add, vectorBase_toNat, hoff]
  rcases Xlen.bits_cases s.cfg.xlen with hw | hw <;> rw [hw] <;> omega

/-- Taking a trap is what `Trapped` says, the trap value cut to XLEN bits. -/
theorem State.trapped_takeTrap (s : State) (isInt : Bool) {code : Nat} (h : code < 16) (epc tval : Word) :
    Trapped s (s.takeTrap isInt code epc tval) isInt code epc.toNat (tval.toNat % 2 ^ s.width) := by
  have hcause := s.causeWord_toNat isInt h
  have htval : (s.cfg.xlen.norm tval).toNat = tval.toNat % 2 ^ s.width := Xlen.norm_toNat _ _
  have hspp : (s.priv == .s) = decide (s.priv = .s) := by cases s.priv <;> rfl
  unfold State.takeTrap
  refine ⟨fun hd => ?_, fun hd => ?_⟩
  · rw [if_pos ((s.delegated_iff isInt code).mpr hd), hspp]
    exact ⟨rfl, hcause, htval, s.trapVector_toNat _ isInt h, rfl⟩
  · rw [if_neg (mt (s.delegated_iff isInt code).mp hd)]
    exact ⟨rfl, hcause, htval, s.trapVector_toNat _ isInt h, rfl⟩

theorem Exc.code_lt (e : Exc) : e.code < 16 := by cases e <;> decide

/-- An instruction whose execution is to raise, with a trap value of XLEN bits. -/
theorem raises_of_raise {i : Instr} {s : State} {e : Trap} (h : exec i s = .next (s.raise e))
    (hv : e.tval.toNat < 2 ^ s.width) : Raises i s e.exc.code e.tval.toNat := by
  refine ⟨_, h, ?_⟩
  have ht := s.trapped_takeTrap false e.exc.code_lt s.getPc e.tval
  rwa [s.getPc_toNat, Nat.mod_eq_of_lt hv] at ht

/-- The same where the trap value is the address in a register. -/
theorem raises_of_raise_getX {i : Instr} {s : State} {x : Exc} {r : Reg} (h : exec i s = .next (s.raise ⟨x, s.getX r⟩)) :
    Raises i s x.code (s.ux r) :=
  raises_of_raise h (s.getX_lt r)

end Sys2Proof.Machine
end

section
/-!
PROOFS. Misaligned atomics (20_memory.md rules R109, R110): the alignment test comes first, so an atomic access raises
there, and each of the three atomic operations with it.
-/

namespace Sys2Proof.Machine

/-- The configuration does not count: a misaligned atomic access has no place. -/
theorem State.locate_misaligned_atomic {s : State} {t : Access} {a : Word} {n : Nat} (ht : t.atomic = true)
    (ha : a.toNat % n ≠ 0) : s.locate t a n = .error ⟨t.misaligned, a⟩ := by
  simp [State.locate, ha, ht]

variable {s : State} {i : Instr} {rd rs1 rs2 : Reg} {n : Nat} {op : Word → Word → Word} {extend : Word → Word}

theorem raises_of_loadReserved (h : exec i s = s.loadReserved rd rs1 n extend) (ha : s.ux rs1 % n ≠ 0) :
    Raises i s 4 (s.ux rs1) := by
  refine raises_of_raise_getX (x := .loadMisaligned) ?_
  rw [h, State.loadReserved, State.locate_misaligned_atomic rfl ha]
  rfl

theorem raises_of_storeConditional (h : exec i s = s.storeConditional rd rs2 rs1 n) (ha : s.ux rs1 % n ≠ 0) :
    Raises i s 6 (s.ux rs1) := by
  refine raises_of_raise_getX (x := .storeMisaligned) ?_
  rw [h, State.storeConditional, State.locate_misaligned_atomic rfl ha]
  rfl

theorem raises_of_amo (h : exec i s = s.amo rd rs2 rs1 n op extend) (ha : s.ux rs1 % n ≠ 0) :
    Raises i s 6 (s.ux rs1) := by
  refine raises_of_raise_getX (x := .storeMisaligned) ?_
  rw [h, State.amo, State.locate_misaligned_atomic rfl ha]
  rfl

/-- `amoswap.d` names its operation here: unification is slow to find one that ignores the old value. -/
theorem exec_amoswapD (rd rs2 rs1 : Reg) (aq rl : Bool) (s : State) :
    exec (.amoswapD rd rs2 rs1 aq rl) s = s.amo rd rs2 rs1 8 (fun _ b => b) id := rfl

end Sys2Proof.Machine

namespace Sys2Proof.Proofs

open Sys2Proof.Machine

/-- Settles O23: each instruction is a load-reserved, a store-conditional or an AMO of its width, and these raise before
any translation. -/
theorem misalignedAtomicsRaise : Obligations.MisalignedAtomicsRaise := by
  intro s rd rs1 rs2 aq rl
  refine ⟨fun ha => ⟨raises_of_loadReserved rfl ha, ?_⟩, fun ha => ⟨raises_of_loadReserved rfl ha, ?_⟩⟩ <;>
    simp only [List.forall_mem_cons, List.not_mem_nil, false_imp_iff, implies_true, and_true]
  · refine ⟨raises_of_storeConditional rfl ha, ?_⟩
    refine ⟨?_, ?_, ?_, ?_, ?_, ?_, ?_, ?_, ?_⟩ <;> exact raises_of_amo rfl ha
  · refine ⟨raises_of_storeConditional rfl ha, raises_of_amo (exec_amoswapD rd rs2 rs1 aq rl s) ha, ?_⟩
    refine ⟨?_, ?_, ?_, ?_, ?_, ?_, ?_, ?_⟩ <;> exact raises_of_amo rfl ha

end Sys2Proof.Proofs
end

section
/-!
PROOFS. The physical memory protection check (20_memory.md rules R125, R128): the scan passes over the entries that do
not match and stops at the first that does.
-/

namespace Sys2Proof.Machine

/-! ## The bytes of an access, by their number -/

theorem any_addrsFrom {f : Nat → Bool} {a n : Nat} : (addrsFrom a n).any f = true ↔ ∃ k, k < n ∧ f (a + k) = true := by
  simp only [List.any_eq_true, mem_addrsFrom]
  constructor
  · rintro ⟨b, ⟨hlo, hhi⟩, hf⟩
    exact ⟨b - a, by omega, by rwa [Nat.add_sub_cancel' hlo]⟩
  · rintro ⟨k, hk, hf⟩
    exact ⟨a + k, ⟨by omega, by omega⟩, hf⟩

theorem all_addrsFrom {f : Nat → Bool} {a n : Nat} : (addrsFrom a n).all f = true ↔ ∀ k, k < n → f (a + k) = true := by
  simp only [List.all_eq_true, mem_addrsFrom]
  constructor
  · exact fun h k hk => h _ ⟨by omega, by omega⟩
  · rintro h b ⟨hlo, hhi⟩
    have hf := h (b - a) (by omega)
    rwa [Nat.add_sub_cancel' hlo] at hf

/-! ## One entry -/

/-- The byte at `b` is in the range of entry `j`. -/
def State.PmpHolds (s : State) (j b : Nat) : Prop := s.pmpLo j ≤ b / 4 ∧ b / 4 < s.pmpAddrAt j

theorem State.pmpIn_iff {s : State} {j b : Nat} : s.pmpIn j b = true ↔ s.PmpHolds j b := by
  simp [State.pmpIn, State.PmpHolds]

/-- Entry `j` matches the access: it is on, and holds one of the bytes. -/
def State.PmpMatches (s : State) (pa n j : Nat) : Prop :=
  (s.pmpCfgAt j).toNat / 8 % 4 = 1 ∧ ∃ k, k < n ∧ s.PmpHolds j (pa + k)

/-- The range mode of an entry as a number. -/
theorem pmpMode_eq_one_iff (c : BitVec 8) : c.extractLsb' 3 2 = 0b01#2 ↔ c.toNat / 8 % 4 = 1 := by
  rw [← BitVec.toNat_inj, BitVec.extractLsb'_toNat, Nat.shiftRight_eq_div_pow]
  simp

/-- The lock bit of an entry as a number. -/
theorem pmpLock_eq_false_iff (c : BitVec 8) : c.getLsbD 7 = false ↔ c.toNat / 128 = 0 := by
  have hc := c.isLt
  rw [BitVec.getLsbD, Nat.testBit_eq_decide_div_mod_eq, decide_eq_false_iff_not]
  omega

/-- What the check tests of an entry is whether it matches. -/
theorem State.pmpMatches_iff {s : State} {pa n j : Nat} :
    ((s.pmpCfgAt j).extractLsb' 3 2 = 0b01#2 ∧ (addrsFrom pa n).any (s.pmpIn j) = true) ↔ s.PmpMatches pa n j := by
  simp only [pmpMode_eq_one_iff, any_addrsFrom, State.pmpIn_iff, State.PmpMatches]

/-- What entry `j` says of an access that it decides. -/
def State.PmpPermits (s : State) (pa n : Nat) (t : Access) (p : Priv) (j : Nat) : Prop :=
  (∀ k, k < n → s.PmpHolds j (pa + k)) ∧
  ((p = .m ∧ (s.pmpCfgAt j).toNat / 128 = 0) ∨
    t.granted ((s.pmpCfgAt j).getLsbD 0) ((s.pmpCfgAt j).getLsbD 1) ((s.pmpCfgAt j).getLsbD 2) = true)

/-! ## The scan -/

/-- The numbers below `m` are those before `j`, then `j`, then others. -/
theorem range_split {j m : Nat} (h : j < m) : ∃ js, List.range m = List.range j ++ j :: js := by
  obtain ⟨k, rfl⟩ := Nat.exists_eq_add_of_lt h
  exact ⟨_, by rw [Nat.add_right_comm, Nat.add_assoc, List.range_add, Nat.add_comm, List.range_succ_eq_map]; rfl⟩

section
variable {s : State} {pa n : Nat} {t : Access} {p : Priv}

theorem State.pmpScan_cons_of_matches {j : Nat} {js : List Nat} (h : s.PmpMatches pa n j) :
    s.pmpScan pa n t p (j :: js) = true ↔ s.PmpPermits pa n t p j := by
  rw [State.pmpScan, if_pos (State.pmpMatches_iff.mpr h)]
  simp only [State.PmpPermits, Bool.and_eq_true, Bool.or_eq_true, beq_iff_eq, Bool.not_eq_true', all_addrsFrom,
    State.pmpIn_iff, pmpLock_eq_false_iff]

/-- Entries that do not match are passed over. -/
theorem State.pmpScan_append {is : List Nat} (js : List Nat) (h : ∀ i ∈ is, ¬ s.PmpMatches pa n i) :
    s.pmpScan pa n t p (is ++ js) = s.pmpScan pa n t p js := by
  induction is with
  | nil => rfl
  | cons i is ih =>
    obtain ⟨hi, his⟩ := List.forall_mem_cons.mp h
    rw [List.cons_append, State.pmpScan, if_neg (mt State.pmpMatches_iff.mp hi), ih his]

/-- The first entry that matches decides. -/
theorem State.pmpOk_of_first {j : Nat} (hj : j < s.cfg.pmpEntries) (h : s.PmpMatches pa n j)
    (hfirst : ∀ i, i < j → ¬ s.PmpMatches pa n i) : s.pmpOk pa n t p = true ↔ s.PmpPermits pa n t p j := by
  obtain ⟨js, hsplit⟩ := range_split hj
  rw [State.pmpOk, hsplit, State.pmpScan_append _ fun i hi => hfirst i (List.mem_range.mp hi)]
  exact State.pmpScan_cons_of_matches h

/-- With no entry that matches, the mode and whether there are entries decide. -/
theorem State.pmpOk_of_none (h : ∀ j, j < s.cfg.pmpEntries → ¬ s.PmpMatches pa n j) :
    s.pmpOk pa n t p = true ↔ p = .m ∨ s.cfg.pmpEntries = 0 := by
  have hscan := State.pmpScan_append (t := t) (p := p) [] fun j hj => h j (List.mem_range.mp hj)
  rw [List.append_nil] at hscan
  rw [State.pmpOk, hscan]
  simp [State.pmpScan]

end

end Sys2Proof.Machine

namespace Sys2Proof.Proofs

open Sys2Proof.Machine

/-- Settles O26: the scan ends at the first entry that matches, or passes over them all. -/
theorem pmpCheck : Obligations.PmpCheck := by
  intro s pa n t p
  refine ⟨fun j hon hmeets hfirst => ?_, fun hnone => ?_⟩
  · obtain ⟨hj, hmode⟩ := hon
    exact State.pmpOk_of_first hj ⟨hmode, hmeets⟩ fun i hi hm => hfirst i hi ⟨hi.trans hj, hm.1⟩ hm.2
  · exact State.pmpOk_of_none fun j hj hm => hnone j ⟨hj, hm.1⟩ hm.2

end Sys2Proof.Proofs
end

section
/-!
PROOFS. Registers and results as unsigned and signed numbers (00_scope.md rules R11, R12; 41_rv64i.md rule R302), and
division and remainder on them with the special cases (42_m.md rule R332).
-/

namespace Sys2Proof.Machine

/-! ## Patterns and integers -/

theorem signed_toNat {n : Nat} (v : BitVec n) : signed n v.toNat = v.toInt := by
  cases n with
  | zero => simp [signed, BitVec.of_length_zero]
  | succ n =>
    rw [signed, BitVec.toInt_eq_toNat_cond, Nat.add_sub_cancel, Nat.pow_succ]
    push_cast
    split <;> split <;> omega

theorem toNat_ofInt_eq_wrap (n : Nat) (i : Int) : (BitVec.ofInt n i).toNat = wrap n i := by
  rw [BitVec.toNat_ofInt, wrap, Nat.cast_pow, Nat.cast_ofNat]

theorem wrap_natCast {n a : Nat} (ha : a < 2 ^ n) : wrap n a = a := by
  rw [wrap, Int.emod_eq_of_lt (Int.natCast_nonneg a) (by exact_mod_cast ha), Int.toNat_natCast]

/-- The pattern of the integer of a pattern. -/
theorem wrap_signed {n a : Nat} (ha : a < 2 ^ n) : wrap n (signed n a) = a := by
  have h := signed_toNat (BitVec.ofNatLT a ha)
  rw [BitVec.toNat_ofNatLT] at h
  rw [h, ← toNat_ofInt_eq_wrap, BitVec.ofInt_toInt, BitVec.toNat_ofNatLT]

theorem signed_eq_zero_iff {n a : Nat} (ha : a < 2 ^ n) : signed n a = 0 ↔ a = 0 := by
  have hpos := Nat.two_pow_pos (n - 1)
  zify at ha
  unfold signed
  split <;> omega

theorem wrap_neg_one (n : Nat) : wrap n (-1) = 2 ^ n - 1 := by
  rw [← toNat_ofInt_eq_wrap, BitVec.ofInt_neg, ← Nat.cast_one, BitVec.ofInt_natCast, BitVec.neg_one_eq_allOnes,
    BitVec.toNat_allOnes]

/-- Cutting to fewer bits in two goes or in one. -/
theorem wrap_mod_two_pow {m n : Nat} (h : m ≤ n) (v : Int) : wrap n v % 2 ^ m = wrap m v := by
  have hn : (0 : Int) ≤ v % 2 ^ n := Int.emod_nonneg v (by positivity)
  rw [wrap, wrap, ← Int.emod_emod_of_dvd v (pow_dvd_pow 2 h), Int.toNat_emod hn (by positivity),
    Int.toNat_pow_of_nonneg (by decide)]
  rfl

/-- The most negative integer has no negative of `n` bits: the pattern of its negative is its own. -/
theorem wrap_neg_signed_min {n : Nat} (h : 2 ^ (n - 1) < 2 ^ n) :
    wrap n (-signed n (2 ^ (n - 1))) = 2 ^ (n - 1) := by
  have hn : n - 1 + 1 = n := by have := (Nat.pow_lt_pow_iff_right one_lt_two).mp h; omega
  have hdouble : (2 : Int) ^ n = 2 ^ (n - 1) + 2 ^ (n - 1) := by rw [← two_mul, ← pow_succ', hn]
  have hneg : -signed n (2 ^ (n - 1)) = ((2 ^ (n - 1) : Nat) : Int) := by
    rw [signed, if_neg (lt_irrefl _)]
    push_cast
    omega
  rw [hneg, wrap_natCast h]

/-! ## Quotient and remainder -/

/-- Only the zero divisor needs a case of its own in the model: the overflow comes of cutting to `n` bits. -/
theorem wrap_quotS {n a b : Nat} (ha : a < 2 ^ n) (hb : b < 2 ^ n) :
    wrap n (quotS (signed n a) (signed n b)) =
      if b = 0 then 2 ^ n - 1
      else if a = 2 ^ (n - 1) ∧ signed n b = -1 then a
      else wrap n ((signed n a).tdiv (signed n b)) := by
  simp only [quotS, signed_eq_zero_iff hb]
  split
  next => exact wrap_neg_one n
  next =>
    split
    next hover =>
      obtain ⟨rfl, hminus⟩ := hover
      rw [hminus, Int.tdiv_neg, Int.tdiv_one, wrap_neg_signed_min ha]
    next => rfl

theorem wrap_remS {n a b : Nat} (ha : a < 2 ^ n) (hb : b < 2 ^ n) :
    wrap n (remS (signed n a) (signed n b)) =
      if b = 0 then a
      else if a = 2 ^ (n - 1) ∧ signed n b = -1 then 0
      else wrap n ((signed n a).tmod (signed n b)) := by
  simp only [remS, signed_eq_zero_iff hb]
  split
  next => exact wrap_signed ha
  next =>
    split
    next hover => rw [hover.2, Int.tmod_neg, Int.tmod_one, wrap, Int.zero_emod, Int.toNat_zero]
    next => rfl

theorem quotU_lt {n a b : Nat} (ha : a < 2 ^ n) : quotU n a b < 2 ^ n := by
  unfold quotU
  split
  next => exact Nat.sub_lt (Nat.two_pow_pos n) one_pos
  next => exact (Nat.div_le_self a b).trans_lt ha

theorem remU_lt {n a b : Nat} (ha : a < 2 ^ n) : remU a b < 2 ^ n := by
  unfold remU
  split
  next => exact ha
  next => exact (Nat.mod_le a b).trans_lt ha

/-! ## Registers as numbers -/

theorem State.width_le (s : State) : s.width ≤ 64 := by
  rw [State.width]
  cases s.cfg.xlen <;> decide

theorem State.ux_lt (s : State) (r : Reg) : s.ux r < 2 ^ s.width := s.getX_lt r

theorem State.uw_lt (s : State) (r : Reg) : s.uw r < 2 ^ 32 := Nat.mod_lt _ (Nat.two_pow_pos 32)

theorem Xlen.toInt_sx (x : Xlen) (v : Word) : (x.sx v).toInt = signed x.bits (v.toNat % 2 ^ x.bits) := by
  cases x with
  | rv32 => rw [Xlen.sx, BitVec.toInt_signExtend_of_le (by decide), ← signed_toNat, BitVec.toNat_setWidth, Xlen.bits]
  | rv64 => rw [Xlen.sx, ← signed_toNat, Xlen.bits, Nat.mod_eq_of_lt v.isLt]

theorem State.intX_eq_ix (s : State) (r : Reg) : s.intX r = s.ix r := by
  rw [State.intX, State.getSx, Xlen.toInt_sx, Nat.mod_eq_of_lt (s.getX_lt r)]
  rfl

theorem State.getW_toNat (s : State) (r : Reg) : (s.getW r).toNat = s.uw r := BitVec.toNat_setWidth ..

theorem State.getW_toInt (s : State) (r : Reg) : (s.getW r).toInt = s.iw r := by
  rw [← signed_toNat, State.getW_toNat, State.iw]

/-! ## Results as numbers -/

section
variable {s : State} {i : Instr} {rd : Reg} {len : Nat}

/-- A natural number of XLEN bits, as a register holds it. -/
theorem givesX_of_ofNat {n : Nat} (h : exec i s = s.writeX rd (BitVec.ofNat 64 n) (BitVec.ofNat 64 len))
    (hn : n < 2 ^ s.width) : GivesX i s len rd n := by
  refine givesX_of_writeX h ?_
  rw [BitVec.toNat_ofNat, Nat.mod_mod_of_dvd _ (Nat.pow_dvd_pow 2 s.width_le), Nat.mod_eq_of_lt hn]

/-- An integer, cut to XLEN bits. -/
theorem givesX_of_ofInt {v : Int} {n : Nat} (h : exec i s = s.writeX rd (BitVec.ofInt 64 v) (BitVec.ofNat 64 len))
    (hv : wrap s.width v = n) : GivesX i s len rd n :=
  givesX_of_writeX h (by rw [toNat_ofInt_eq_wrap, wrap_mod_two_pow s.width_le, hv])

/-- A word, sign-extended to XLEN bits. -/
theorem givesX_of_sextW {v : BitVec 32} {n : Nat} (h : exec i s = s.writeX rd (s.sextW v) (BitVec.ofNat 64 len))
    (hv : v.toNat = n) : GivesX i s len rd (s.ofW n) := by
  refine givesX_of_writeX h ?_
  have hext : (v.signExtend 64).toNat = wrap 64 v.toInt := toNat_ofInt_eq_wrap 64 v.toInt
  rw [State.sextW, Xlen.sext, Xlen.norm_toNat, hext, ← State.width, Nat.mod_mod, wrap_mod_two_pow s.width_le,
    State.ofW, ← hv, signed_toNat]

end

end Sys2Proof.Machine

namespace Sys2Proof.Proofs

open Sys2Proof.Machine

/-- Settles O14: each instruction writes the quotient or the remainder of its operands as numbers; the two signed
special cases are those of `wrap_quotS` and `wrap_remS`. -/
theorem divide : Obligations.Divide := by
  intro s rd rs1 rs2
  have hx1 := s.ux_lt rs1
  have hx2 := s.ux_lt rs2
  have hw1 := s.uw_lt rs1
  have hw2 := s.uw_lt rs2
  refine ⟨?div, ?divu, ?rem, ?remu, ?divw, ?divuw, ?remw, ?remuw⟩
  case div => exact givesX_of_ofInt rfl (by rw [s.intX_eq_ix, s.intX_eq_ix]; exact wrap_quotS hx1 hx2)
  case divu => exact givesX_of_ofNat rfl (quotU_lt hx1)
  case rem => exact givesX_of_ofInt rfl (by rw [s.intX_eq_ix, s.intX_eq_ix]; exact wrap_remS hx1 hx2)
  case remu => exact givesX_of_ofNat rfl (remU_lt hx1)
  case divw =>
    refine givesX_of_sextW rfl ?_
    rw [toNat_ofInt_eq_wrap, s.getW_toInt, s.getW_toInt]
    exact wrap_quotS hw1 hw2
  case divuw =>
    refine givesX_of_sextW rfl ?_
    rw [s.getW_toNat, s.getW_toNat]
    exact (BitVec.toNat_ofNat ..).trans (Nat.mod_eq_of_lt (quotU_lt hw1))
  case remw =>
    refine givesX_of_sextW rfl ?_
    rw [toNat_ofInt_eq_wrap, s.getW_toInt, s.getW_toInt]
    exact wrap_remS hw1 hw2
  case remuw =>
    refine givesX_of_sextW rfl ?_
    rw [s.getW_toNat, s.getW_toNat]
    exact (BitVec.toNat_ofNat ..).trans (Nat.mod_eq_of_lt (remU_lt hw1))

end Sys2Proof.Proofs
end

section
/-!
PROOFS. Instructions that are illegal where they execute (60_exceptions.md rules R703, R711), and the return
instructions `mret` and `sret` (47_privileged.md rules R621, R622).
-/

namespace Sys2Proof.Machine

/-! ## Illegal instructions -/

/-- The bits of an instruction fit the trap value register, also where XLEN is 32. -/
theorem Bits.toWord_lt_width (b : Bits) (s : State) : b.toWord.toNat < 2 ^ s.width := by
  have hword : b.toWord.toNat < 2 ^ 32 := by
    cases b with
    | long v => simp only [Bits.toWord, BitVec.toNat_setWidth]; omega
    | short v => simp only [Bits.toWord, BitVec.toNat_setWidth]; omega
  refine hword.trans_le (Nat.pow_le_pow_right two_pos ?_)
  rw [State.width]
  cases s.cfg.xlen <;> decide

theorem isIllegal_of_illegal {i : Instr} {s : State} (h : exec i s = .next (s.illegal i)) : IsIllegal i s :=
  raises_of_raise h (Bits.toWord_lt_width _ s)

/-! ## Returning from a trap -/

theorem exec_mret_of_machine {s : State} (h : s.priv = .m) : exec .mret s = .next s.returnM := if_pos h

theorem exec_mret_of_not_machine {s : State} (h : ¬ s.priv = .m) : exec .mret s = .next (s.illegal .mret) := if_neg h

theorem exec_sret_of_legal {s : State} (h : s.cfg.modes.hasS = true ∧ s.priv ≠ .u) :
    exec .sret s = .next s.returnS := if_pos h

theorem exec_sret_of_not_legal {s : State} (h : ¬ (s.cfg.modes.hasS = true ∧ s.priv ≠ .u)) :
    exec .sret s = .next (s.illegal .sret) := if_neg h

/-- The return takes `mepc` as it reads: the read cuts it to XLEN bits once more. -/
theorem State.csrRead_mepc (s : State) : s.csrRead .mepc = s.returnM.pc := Xlen.norm_norm _ _

theorem State.csrRead_sepc (s : State) : s.csrRead .sepc = s.returnS.pc := Xlen.norm_norm _ _

end Sys2Proof.Machine

namespace Sys2Proof.Proofs

open Sys2Proof.Machine

/-- Settles O32: where it is legal each return is `returnM` or `returnS`, and elsewhere it raises with its own bits. -/
theorem trapReturns : Obligations.TrapReturns := by
  refine ⟨by decide, by decide, fun s => ⟨?mret, ?sret⟩⟩
  case mret =>
    split
    next h => exact ⟨s.returnM, exec_mret_of_machine h, by rw [s.csrRead_mepc], rfl, rfl⟩
    next h => exact isIllegal_of_illegal (exec_mret_of_not_machine h)
  case sret =>
    split
    next h => exact ⟨s.returnS, exec_sret_of_legal h, by rw [s.csrRead_sepc], rfl, rfl⟩
    next h => exact isIllegal_of_illegal (exec_sret_of_not_legal h)

end Sys2Proof.Proofs
end

section
/-!
PROOFS. Taking a trap (60_exceptions.md rules R720 to R723), at the `pc` of the state that takes it.
-/

namespace Sys2Proof.Proofs

open Sys2Proof.Machine

/-- Settles O31: `State.trapped_takeTrap` splits on delegation; the `pc` that is saved, as a number, is `upc`. -/
theorem trapEntry : Obligations.TrapEntry := by
  intro s isInt code tval hcode
  rw [← s.getPc_toNat]
  exact s.trapped_takeTrap isInt hcode s.getPc tval

end Sys2Proof.Proofs
end

section
/-!
PROOFS. Reset (70_reset_and_hazards.md rule R781). `x0` and `mstatus.MPRV` read 0 in every state (10_state.md rules R21,
R47), the state after reset among them; the rest is the state's own fields.
-/

namespace Sys2Proof.Machine

@[simp] theorem State.ux_zero (s : State) : s.ux 0 = 0 := by simp [State.ux, State.getX]

/-! ## MPRV -/

theorem Xlen.getLsbD_norm (x : Xlen) (v : Word) (i : Nat) :
    (x.norm v).getLsbD i = (decide (i < x.bits) && v.getLsbD i) := by
  simp [BitVec.getLsbD, Xlen.norm_toNat, Nat.testBit_mod_two_pow]

theorem getLsbD_bitAt_of_ne {i k : Nat} (b : Bool) (h : i ≠ k) : (bitAt b k).getLsbD i = false := by
  cases b
  case false => exact BitVec.getLsbD_zero
  case true =>
    have hi : i < k ∨ i - k ≠ 0 := by omega
    simpa [bitAt, BitVec.getLsbD_one] using fun _ hk => hi.resolve_left (by omega)

theorem getLsbD_fsField_mprv (c : Config) : (fsField c).getLsbD 17 = false := by
  unfold fsField
  split <;> rfl

theorem getLsbD_sdField_mprv (c : Config) : (sdField c).getLsbD 17 = false :=
  getLsbD_bitAt_of_ne _ (by rcases Xlen.bits_cases c.xlen with h | h <;> omega)

theorem State.getLsbD_sFields_mprv (s : State) : s.sFields.getLsbD 17 = false := by
  unfold State.sFields
  split
  · simp (disch := decide) only [BitVec.getLsbD_or, getLsbD_bitAt_of_ne, Bool.or_self]
  · rfl

theorem State.getLsbD_mppField_mprv (s : State) : (s.mppField.code.setWidth 64 <<< 11).getLsbD 17 = false := by
  cases s.mppField <;> rfl

/-- No field of `mstatus` covers MPRV's place. -/
theorem State.getLsbD_mstatusWord_mprv (s : State) : s.mstatusWord.getLsbD 17 = false := by
  simp (disch := decide) only [State.mstatusWord, BitVec.getLsbD_or, getLsbD_sdField_mprv, getLsbD_fsField_mprv,
    State.getLsbD_sFields_mprv, State.getLsbD_mppField_mprv, getLsbD_bitAt_of_ne, Bool.or_self]

theorem State.getLsbD_csrRead_mstatus_mprv (s : State) : (s.csrRead .mstatus).getLsbD 17 = false := by
  rw [State.csrRead, Xlen.getLsbD_norm, State.csrValue, getLsbD_mstatusWord_mprv, Bool.and_false]

/-! ## The PMP entries -/

theorem State.pmpCfgAt_reset (i : Fin 16) : State.reset.pmpCfgAt i.val = 0 := by
  simp [State.pmpCfgAt, State.reset]

end Sys2Proof.Machine

namespace Sys2Proof.Proofs

open Sys2Proof.Machine

/-- Settles O1: the fields have their values by `State.reset`'s definition, a PMP byte of 0 is off and unlocked, and what
`x0` and MPRV read holds in every state. -/
theorem resetValues : Obligations.ResetValues := by
  refine ⟨?pc, ?aligned, ?priv, ?mie, ?pmp, ?reservation, ?tlb, ?x0, ?mprv⟩
  case pc | aligned | priv | mie | reservation | tlb => rfl
  case pmp => simp [State.pmpCfgAt_reset]
  case x0 => exact State.reset.ux_zero
  case mprv => exact State.reset.getLsbD_csrRead_mstatus_mprv

end Sys2Proof.Proofs
end

section
/-!
PROOFS. Decoding and encoding are inverse (30_encoding.md sections 3 and 4). Decoding an encoding: the opcode picks the
decoder of its rows, and the fields of the format read as they were written (Laws/Encoding.lean). Encoding what was
decoded: a word is its format with its own fields, so no bit of it is left out.
-/

namespace Sys2Proof

/-! ## The decoder that an opcode picks -/

section
variable {x : Xlen} {w : BitVec 32} {i : Instr}

theorem decodeBits_upper (he : encode i = .long w) : decodeBits x (encode i) = decode32 x w := by
  rw [he, decodeBits]

theorem decodeBits_jalr (he : encode i = .long w) (h : fOpcode w = 0b1100111#7) :
    decodeBits x (encode i) = decodeJalr w := by
  simp only [he, decodeBits, decode32, h]

theorem decodeBits_branch (he : encode i = .long w) (h : fOpcode w = 0b1100011#7) :
    decodeBits x (encode i) = decodeBranch w := by
  simp only [he, decodeBits, decode32, h]

theorem decodeBits_load (he : encode i = .long w) (h : fOpcode w = 0b0000011#7) :
    decodeBits x (encode i) = decodeLoad x w := by
  simp only [he, decodeBits, decode32, h]

theorem decodeBits_store (he : encode i = .long w) (h : fOpcode w = 0b0100011#7) :
    decodeBits x (encode i) = decodeStore x w := by
  simp only [he, decodeBits, decode32, h]

theorem decodeBits_opImm (he : encode i = .long w) (h : fOpcode w = 0b0010011#7) :
    decodeBits x (encode i) = decodeOpImm x w := by
  simp only [he, decodeBits, decode32, h]

theorem decodeBits_op (he : encode i = .long w) (h : fOpcode w = 0b0110011#7) :
    decodeBits x (encode i) = decodeOp w := by
  simp only [he, decodeBits, decode32, h]

theorem decodeBits_miscMem (he : encode i = .long w) (h : fOpcode w = 0b0001111#7) :
    decodeBits x (encode i) = decodeMiscMem w := by
  simp only [he, decodeBits, decode32, h]

theorem decodeBits_system (he : encode i = .long w) (h : fOpcode w = 0b1110011#7) :
    decodeBits x (encode i) = decodeSystem w := by
  simp only [he, decodeBits, decode32, h]

theorem decodeBits_opImm32 (he : encode i = .long w) (h : fOpcode w = 0b0011011#7) :
    decodeBits x (encode i) = decodeOpImm32 x w := by
  simp only [he, decodeBits, decode32, h]

theorem decodeBits_op32 (he : encode i = .long w) (h : fOpcode w = 0b0111011#7) :
    decodeBits x (encode i) = decodeOp32 x w := by
  simp only [he, decodeBits, decode32, h]

theorem decodeBits_amo (he : encode i = .long w) (h : fOpcode w = 0b0101111#7) :
    decodeBits x (encode i) = decodeAmo x w := by
  simp only [he, decodeBits, decode32, h]

theorem decodeBits_loadFp (he : encode i = .long w) (h : fOpcode w = 0b0000111#7) :
    decodeBits x (encode i) = decodeLoadFp w := by
  simp only [he, decodeBits, decode32, h]

theorem decodeBits_storeFp (he : encode i = .long w) (h : fOpcode w = 0b0100111#7) :
    decodeBits x (encode i) = decodeStoreFp w := by
  simp only [he, decodeBits, decode32, h]

theorem decodeBits_fmadd (he : encode i = .long w) (h : fOpcode w = 0b1000011#7) :
    decodeBits x (encode i) = decodeFmadd w := by
  simp only [he, decodeBits, decode32, h]

theorem decodeBits_fmsub (he : encode i = .long w) (h : fOpcode w = 0b1000111#7) :
    decodeBits x (encode i) = decodeFmsub w := by
  simp only [he, decodeBits, decode32, h]

theorem decodeBits_fnmsub (he : encode i = .long w) (h : fOpcode w = 0b1001011#7) :
    decodeBits x (encode i) = decodeFnmsub w := by
  simp only [he, decodeBits, decode32, h]

theorem decodeBits_fnmadd (he : encode i = .long w) (h : fOpcode w = 0b1001111#7) :
    decodeBits x (encode i) = decodeFnmadd w := by
  simp only [he, decodeBits, decode32, h]

theorem decodeBits_opFp (he : encode i = .long w) (h : fOpcode w = 0b1010011#7) :
    decodeBits x (encode i) = decodeOpFp x w := by
  simp only [he, decodeBits, decode32, h]

end

section
variable {x : Xlen} {p : BitVec 16} {i : Instr}

theorem decodeBits_q0 (he : encode i = .short p) (h : p.extractLsb' 0 2 = 0b00#2) :
    decodeBits x (encode i) = decodeQ0 x p := by
  simp only [he, decodeBits, decode16, h]

theorem decodeBits_q1 (he : encode i = .short p) (h : p.extractLsb' 0 2 = 0b01#2) :
    decodeBits x (encode i) = decodeQ1 x p := by
  simp only [he, decodeBits, decode16, h]

theorem decodeBits_q2 (he : encode i = .short p) (h : p.extractLsb' 0 2 = 0b10#2) :
    decodeBits x (encode i) = decodeQ2 x p := by
  simp only [he, decodeBits, decode16, h]

end

theorem eq_rv64_of_wf {x : Xlen} {i : Instr} (hw : i.wf x = true) (h : i.wf .rv32 = false) : x = .rv64 := by
  cases x with
  | rv32 => rw [h] at hw; cases hw
  | rv64 => rfl

theorem eq_rv32_of_wf {x : Xlen} {i : Instr} (hw : i.wf x = true) (h : i.wf .rv64 = false) : x = .rv32 := by
  cases x with
  | rv32 => rfl
  | rv64 => rw [h] at hw; cases hw

/-! ## Decoding an encoding -/

section
variable (pred succ : BitVec 4)

theorem fence_imm_mode : (0b0000#4 ++ pred ++ succ : BitVec 12).extractLsb' 8 4 = 0 := by
  refine eq_of_bits fun i hi => ?_
  interval_cases i <;> (simp only [BitVec.getLsbD_extractLsb', BitVec.getLsbD_append]; simp)

theorem fence_imm_pred : (0b0000#4 ++ pred ++ succ : BitVec 12).extractLsb' 4 4 = pred := by
  refine eq_of_bits fun i hi => ?_
  interval_cases i <;> (simp only [BitVec.getLsbD_extractLsb', BitVec.getLsbD_append]; simp)

theorem fence_imm_succ : (0b0000#4 ++ pred ++ succ : BitVec 12).extractLsb' 0 4 = succ := by
  refine eq_of_bits fun i hi => ?_
  interval_cases i <;> (simp only [BitVec.getLsbD_extractLsb', BitVec.getLsbD_append]; simp)

end

theorem decodeBits_encode {x : Xlen} {i : Instr} (h : i.wf x = true) : decodeBits x (encode i) = .ok i := by
  cases i
  case lui | auipc => exact (decodeBits_upper rfl).trans (by simp [decode32])
  case jal => exact (decodeBits_upper rfl).trans (by simp [decode32])
  case jalr => exact (decodeBits_jalr rfl (fOpcode_encI ..)).trans (by simp [decodeJalr])
  case beq | bne | blt | bge | bltu | bgeu =>
    exact (decodeBits_branch rfl (fOpcode_encB ..)).trans (by simp [decodeBranch])
  case lb | lh | lw | lbu | lhu => exact (decodeBits_load rfl (fOpcode_encI ..)).trans (by simp [decodeLoad])
  case lwu | ld =>
    obtain rfl := eq_rv64_of_wf h rfl
    exact (decodeBits_load rfl (fOpcode_encI ..)).trans (by simp [decodeLoad, rv64])
  case sb | sh | sw => exact (decodeBits_store rfl (fOpcode_encS ..)).trans (by simp [decodeStore])
  case sd =>
    obtain rfl := eq_rv64_of_wf h rfl
    exact (decodeBits_store rfl (fOpcode_encS ..)).trans (by simp [decodeStore, rv64])
  case addi | slti | sltiu | xori | ori | andi =>
    exact (decodeBits_opImm rfl (fOpcode_encI ..)).trans (by simp [decodeOpImm])
  case slli sh | srli sh | srai sh =>
    have hsh : shamtOk x sh = true := h
    exact (decodeBits_opImm rfl (fOpcode_encSh ..)).trans (by simp [decodeOpImm, onlyIf, hsh])
  case add | sub | sll | slt | sltu | xor | srl | sra | or | and | mul | mulh | mulhsu | mulhu | div | divu | rem
    | remu => exact (decodeBits_op rfl (fOpcode_encR ..)).trans (by simp [decodeOp])
  case fence =>
    exact (decodeBits_miscMem rfl (fOpcode_encI ..)).trans
      (by simp [decodeMiscMem, fence_imm_mode, fence_imm_pred, fence_imm_succ])
  case fenceI => exact (decodeBits_miscMem rfl (fOpcode_encI ..)).trans (by simp [decodeMiscMem])
  case ecall | ebreak | mret | sret | wfi =>
    exact (decodeBits_system rfl (fOpcode_encI ..)).trans (by simp [decodeSystem])
  case csrrw | csrrs | csrrc | csrrwi | csrrsi | csrrci =>
    exact (decodeBits_system rfl (fOpcode_encI ..)).trans (by simp [decodeSystem])
  case sfenceVma => exact (decodeBits_system rfl (fOpcode_encR ..)).trans (by simp [decodeSystem])
  case addiw =>
    obtain rfl := eq_rv64_of_wf h rfl
    exact (decodeBits_opImm32 rfl (fOpcode_encI ..)).trans (by simp [decodeOpImm32, rv64])
  case slliw | srliw | sraiw =>
    obtain rfl := eq_rv64_of_wf h rfl
    exact (decodeBits_opImm32 rfl (fOpcode_encR ..)).trans (by simp [decodeOpImm32, rv64])
  case addw | subw | sllw | srlw | sraw | mulw | divw | divuw | remw | remuw =>
    obtain rfl := eq_rv64_of_wf h rfl
    exact (decodeBits_op32 rfl (fOpcode_encR ..)).trans (by simp [decodeOp32, rv64])
  case lrW | scW | amoswapW | amoaddW | amoxorW | amoandW | amoorW | amominW | amomaxW | amominuW | amomaxuW =>
    exact (decodeBits_amo rfl (fOpcode_encA ..)).trans (by simp [decodeAmo])
  case lrD | scD | amoswapD | amoaddD | amoxorD | amoandD | amoorD | amominD | amomaxD | amominuD | amomaxuD =>
    obtain rfl := eq_rv64_of_wf h rfl
    exact (decodeBits_amo rfl (fOpcode_encA ..)).trans (by simp [decodeAmo, rv64])
  case flw | fld => exact (decodeBits_loadFp rfl (fOpcode_encI ..)).trans (by simp [decodeLoadFp])
  case fsw | fsd => exact (decodeBits_storeFp rfl (fOpcode_encS ..)).trans (by simp [decodeStoreFp])
  case fmaddS | fmaddD => exact (decodeBits_fmadd rfl (fOpcode_encR4 ..)).trans (by simp [decodeFmadd])
  case fmsubS | fmsubD => exact (decodeBits_fmsub rfl (fOpcode_encR4 ..)).trans (by simp [decodeFmsub])
  case fnmsubS | fnmsubD => exact (decodeBits_fnmsub rfl (fOpcode_encR4 ..)).trans (by simp [decodeFnmsub])
  case fnmaddS | fnmaddD => exact (decodeBits_fnmadd rfl (fOpcode_encR4 ..)).trans (by simp [decodeFnmadd])
  case faddS | faddD | fsubS | fsubD | fmulS | fmulD | fdivS | fdivD | fsqrtS | fsqrtD | fsgnjS | fsgnjD | fsgnjnS
    | fsgnjnD | fsgnjxS | fsgnjxD | fminS | fminD | fmaxS | fmaxD | feqS | feqD | fltS | fltD | fleS | fleD | fclassS
    | fclassD | fmvXW | fmvWX | fcvtWS | fcvtWD | fcvtWuS | fcvtWuD | fcvtSW | fcvtDW | fcvtSWu | fcvtDWu | fcvtSD
    | fcvtDS => exact (decodeBits_opFp rfl (fOpcode_encR ..)).trans (by simp [decodeOpFp])
  case fcvtLS | fcvtLD | fcvtLuS | fcvtLuD | fcvtSL | fcvtDL | fcvtSLu | fcvtDLu | fmvXD | fmvDX =>
    obtain rfl := eq_rv64_of_wf h rfl
    exact (decodeBits_opFp rfl (fOpcode_encR ..)).trans (by simp [decodeOpFp, rv64])
  case cAddi4spn _ uimm =>
    have hi : uimm ≠ 0#8 := of_decide_eq_true h
    exact (decodeBits_q0 rfl (bits_0_2_encC4spn ..)).trans (by simp [decodeQ0, onlyIf, hi])
  case cFld | cFsd => exact (decodeBits_q0 rfl (bits_0_2_encCD ..)).trans (by simp [decodeQ0])
  case cLw | cSw => exact (decodeBits_q0 rfl (bits_0_2_encCW ..)).trans (by simp [decodeQ0])
  case cFlw | cFsw =>
    obtain rfl := eq_rv32_of_wf h rfl
    exact (decodeBits_q0 rfl (bits_0_2_encCW ..)).trans (by simp [decodeQ0])
  case cLd | cSd =>
    obtain rfl := eq_rv64_of_wf h rfl
    exact (decodeBits_q0 rfl (bits_0_2_encCD ..)).trans (by simp [decodeQ0])
  case cNop => exact (decodeBits_q1 rfl (bits_0_2_encCI ..)).trans (by simp [decodeQ1])
  case cAddi rd _ =>
    have hrd : rd ≠ 0#5 := of_decide_eq_true h
    exact (decodeBits_q1 rfl (bits_0_2_encCI ..)).trans (by simp [decodeQ1, hrd])
  case cJal =>
    obtain rfl := eq_rv32_of_wf h rfl
    exact (decodeBits_q1 rfl (bits_0_2_encCJ ..)).trans (by simp [decodeQ1])
  case cAddiw rd _ =>
    obtain rfl := eq_rv64_of_wf h rfl
    have hrd : rd ≠ 0#5 := of_decide_eq_true h
    exact (decodeBits_q1 rfl (bits_0_2_encCI ..)).trans (by simp [decodeQ1, onlyIf, hrd])
  case cLi => exact (decodeBits_q1 rfl (bits_0_2_encCI ..)).trans (by simp [decodeQ1])
  case cAddi16sp imm =>
    have hi : imm ≠ 0#6 := of_decide_eq_true h
    exact (decodeBits_q1 rfl (bits_0_2_encC16sp ..)).trans (by simp [decodeQ1, onlyIf, hi])
  case cLui rd imm =>
    obtain ⟨hrd, hi⟩ : rd ≠ 2#5 ∧ imm ≠ 0#6 := of_decide_eq_true h
    exact (decodeBits_q1 rfl (bits_0_2_encCI ..)).trans (by simp [decodeQ1, onlyIf, hrd, hi])
  case cSrli sh | cSrai sh =>
    have hsh : shamtOk x sh = true := h
    exact (decodeBits_q1 rfl (bits_0_2_encCAI ..)).trans (by simp [decodeQ1, decodeQ1Arith, onlyIf, hsh])
  case cAndi => exact (decodeBits_q1 rfl (bits_0_2_encCAI ..)).trans (by simp [decodeQ1, decodeQ1Arith])
  case cSub | cXor | cOr | cAnd =>
    exact (decodeBits_q1 rfl (bits_0_2_encCA ..)).trans (by simp [decodeQ1, decodeQ1Arith])
  case cSubw | cAddw =>
    obtain rfl := eq_rv64_of_wf h rfl
    exact (decodeBits_q1 rfl (bits_0_2_encCA ..)).trans (by simp [decodeQ1, decodeQ1Arith, rv64])
  case cJ => exact (decodeBits_q1 rfl (bits_0_2_encCJ ..)).trans (by simp [decodeQ1])
  case cBeqz | cBnez => exact (decodeBits_q1 rfl (bits_0_2_encCB ..)).trans (by simp [decodeQ1])
  case cSlli sh =>
    have hsh : shamtOk x sh = true := h
    exact (decodeBits_q2 rfl (bits_0_2_encCI ..)).trans (by simp [decodeQ2, onlyIf, hsh])
  case cFldsp => exact (decodeBits_q2 rfl (bits_0_2_encCLdsp ..)).trans (by simp [decodeQ2])
  case cLwsp rd _ =>
    have hrd : rd ≠ 0#5 := of_decide_eq_true h
    exact (decodeBits_q2 rfl (bits_0_2_encCLwsp ..)).trans (by simp [decodeQ2, onlyIf, hrd])
  case cFlwsp =>
    obtain rfl := eq_rv32_of_wf h rfl
    exact (decodeBits_q2 rfl (bits_0_2_encCLwsp ..)).trans (by simp [decodeQ2])
  case cLdsp rd _ =>
    obtain rfl := eq_rv64_of_wf h rfl
    have hrd : rd ≠ 0#5 := of_decide_eq_true h
    exact (decodeBits_q2 rfl (bits_0_2_encCLdsp ..)).trans (by simp [decodeQ2, onlyIf, hrd])
  case cEbreak => exact (decodeBits_q2 rfl (bits_0_2_encCR ..)).trans (by simp [decodeQ2])
  case cJr r | cJalr r | cMv _ r =>
    have hr : r ≠ 0#5 := of_decide_eq_true h
    exact (decodeBits_q2 rfl (bits_0_2_encCR ..)).trans (by simp [decodeQ2, onlyIf, hr])
  case cAdd rd rs2 =>
    obtain ⟨hrd, hrs⟩ : rd ≠ 0#5 ∧ rs2 ≠ 0#5 := of_decide_eq_true h
    exact (decodeBits_q2 rfl (bits_0_2_encCR ..)).trans (by simp [decodeQ2, onlyIf, hrd, hrs])
  case cFsdsp => exact (decodeBits_q2 rfl (bits_0_2_encCSdsp ..)).trans (by simp [decodeQ2])
  case cSwsp => exact (decodeBits_q2 rfl (bits_0_2_encCSwsp ..)).trans (by simp [decodeQ2])
  case cFswsp =>
    obtain rfl := eq_rv32_of_wf h rfl
    exact (decodeBits_q2 rfl (bits_0_2_encCSwsp ..)).trans (by simp [decodeQ2])
  case cSdsp =>
    obtain rfl := eq_rv64_of_wf h rfl
    exact (decodeBits_q2 rfl (bits_0_2_encCSdsp ..)).trans (by simp [decodeQ2])

/-! ## A word is its format with its own fields -/

section
variable (w : BitVec 32)

theorem encR_fields : encR (fFunct7 w) (fRs2 w) (fRs1 w) (fFunct3 w) (fRd w) (fOpcode w) = w := by
  unfold encR fFunct7 fRs2 fRs1 fFunct3 fRd fOpcode
  refine eq_of_bits fun i hi => ?_
  interval_cases i <;> (simp only [BitVec.getLsbD_extractLsb', BitVec.getLsbD_append]; simp)

theorem encI_fields : encI (fImmI w) (fRs1 w) (fFunct3 w) (fRd w) (fOpcode w) = w := by
  unfold encI fImmI fRs1 fFunct3 fRd fOpcode
  refine eq_of_bits fun i hi => ?_
  interval_cases i <;> (simp only [BitVec.getLsbD_extractLsb', BitVec.getLsbD_append]; simp)

theorem encS_fields : encS (fImmS w) (fRs2 w) (fRs1 w) (fFunct3 w) (fOpcode w) = w := by
  unfold encS fImmS fRs2 fRs1 fFunct3 fOpcode
  refine eq_of_bits fun i hi => ?_
  interval_cases i <;> (simp only [BitVec.getLsbD_extractLsb', BitVec.getLsbD_append]; simp)

theorem encB_fields : encB (fOffB w) (fRs2 w) (fRs1 w) (fFunct3 w) (fOpcode w) = w := by
  unfold encB fOffB fRs2 fRs1 fFunct3 fOpcode
  refine eq_of_bits fun i hi => ?_
  interval_cases i <;> (simp only [BitVec.getLsbD_extractLsb', BitVec.getLsbD_append]; simp)

theorem encU_fields : encU (fImmU w) (fRd w) (fOpcode w) = w := by
  unfold encU fImmU fRd fOpcode
  refine eq_of_bits fun i hi => ?_
  interval_cases i <;> (simp only [BitVec.getLsbD_extractLsb', BitVec.getLsbD_append]; simp)

theorem encJ_fields : encJ (fOffJ w) (fRd w) (fOpcode w) = w := by
  unfold encJ fOffJ fRd fOpcode
  refine eq_of_bits fun i hi => ?_
  interval_cases i <;> (simp only [BitVec.getLsbD_extractLsb', BitVec.getLsbD_append]; simp)

theorem encSh_fields : encSh (fFunct6 w) (fShamt w) (fRs1 w) (fFunct3 w) (fRd w) (fOpcode w) = w := by
  unfold encSh fFunct6 fShamt fRs1 fFunct3 fRd fOpcode
  refine eq_of_bits fun i hi => ?_
  interval_cases i <;> (simp only [BitVec.getLsbD_extractLsb', BitVec.getLsbD_append]; simp)

theorem encR4_fields : encR4 (fRs3 w) (fFmt w) (fRs2 w) (fRs1 w) (fFunct3 w) (fRd w) (fOpcode w) = w := by
  unfold encR4 fRs3 fFmt fRs2 fRs1 fFunct3 fRd fOpcode
  refine eq_of_bits fun i hi => ?_
  interval_cases i <;> (simp only [BitVec.getLsbD_extractLsb', BitVec.getLsbD_append]; simp)

theorem fImmI_eq_fence : fImmI w = w.extractLsb' 28 4 ++ fPred w ++ fSucc w := by
  unfold fImmI fPred fSucc
  refine eq_of_bits fun i hi => ?_
  interval_cases i <;> (simp only [BitVec.getLsbD_extractLsb', BitVec.getLsbD_append]; simp)

theorem fFunct7_eq_amo : fFunct7 w = fFunct5 w ++ BitVec.ofBool (fAq w) ++ BitVec.ofBool (fRl w) := by
  unfold fFunct7 fFunct5 fAq fRl
  refine eq_of_bits fun i hi => ?_
  interval_cases i <;> (simp only [BitVec.getLsbD_extractLsb', BitVec.getLsbD_append]; simp)

theorem encA_fields {w : BitVec 32} (h : fOpcode w = 0b0101111#7) :
    encA (fFunct5 w) (fAq w) (fRl w) (fRs2 w) (fRs1 w) (fFunct3 w) (fRd w) = w := by
  have hR := encR_fields w
  rw [fFunct7_eq_amo, h] at hR
  exact hR

end

section
variable {p : BitVec 16}

theorem encCI_fields (p : BitVec 16) :
    encCI (p.extractLsb' 13 3) (cImm6 p) (cRd p) (p.extractLsb' 0 2) = p := by
  unfold encCI cImm6 cRd
  refine eq_of_bits fun i hi => ?_
  interval_cases i <;> (simp only [BitVec.getLsbD_extractLsb', BitVec.getLsbD_append]; simp)

theorem encCR_fields (h : p.extractLsb' 0 2 = 0b10#2) :
    encCR (p.extractLsb' 12 4) (cRd p) (cRs2 p) = p := by
  unfold encCR cRd cRs2
  rw [← h]
  refine eq_of_bits fun i hi => ?_
  interval_cases i <;> (simp only [BitVec.getLsbD_extractLsb', BitVec.getLsbD_append]; simp)

theorem encC4spn_fields (hf : p.extractLsb' 13 3 = 0b000#3) (h : p.extractLsb' 0 2 = 0b00#2) :
    encC4spn (cImm4spn p) (cLow p) = p := by
  unfold encC4spn cImm4spn cLow
  rw [← hf, ← h]
  refine eq_of_bits fun i hi => ?_
  interval_cases i <;> (simp only [BitVec.getLsbD_extractLsb', BitVec.getLsbD_append]; simp)

theorem encC16sp_fields (hf : p.extractLsb' 13 3 = 0b011#3) (hr : cRd p = 0b00010#5) (h : p.extractLsb' 0 2 = 0b01#2) :
    encC16sp (cImm16sp p) = p := by
  unfold encC16sp cImm16sp
  rw [← hf, ← hr, ← h]
  unfold cRd
  refine eq_of_bits fun i hi => ?_
  interval_cases i <;> (simp only [BitVec.getLsbD_extractLsb', BitVec.getLsbD_append]; simp)

theorem encCW_fields (h : p.extractLsb' 0 2 = 0b00#2) :
    encCW (p.extractLsb' 13 3) (cImmW p) (cHigh p) (cLow p) = p := by
  unfold encCW cImmW cHigh cLow
  rw [← h]
  refine eq_of_bits fun i hi => ?_
  interval_cases i <;> (simp only [BitVec.getLsbD_extractLsb', BitVec.getLsbD_append]; simp)

theorem encCD_fields (h : p.extractLsb' 0 2 = 0b00#2) :
    encCD (p.extractLsb' 13 3) (cImmD p) (cHigh p) (cLow p) = p := by
  unfold encCD cImmD cHigh cLow
  rw [← h]
  refine eq_of_bits fun i hi => ?_
  interval_cases i <;> (simp only [BitVec.getLsbD_extractLsb', BitVec.getLsbD_append]; simp)

theorem encCLwsp_fields (h : p.extractLsb' 0 2 = 0b10#2) :
    encCLwsp (p.extractLsb' 13 3) (cImmLwsp p) (cRd p) = p := by
  unfold encCLwsp cImmLwsp cRd
  rw [← h]
  refine eq_of_bits fun i hi => ?_
  interval_cases i <;> (simp only [BitVec.getLsbD_extractLsb', BitVec.getLsbD_append]; simp)

theorem encCLdsp_fields (h : p.extractLsb' 0 2 = 0b10#2) :
    encCLdsp (p.extractLsb' 13 3) (cImmLdsp p) (cRd p) = p := by
  unfold encCLdsp cImmLdsp cRd
  rw [← h]
  refine eq_of_bits fun i hi => ?_
  interval_cases i <;> (simp only [BitVec.getLsbD_extractLsb', BitVec.getLsbD_append]; simp)

theorem encCSwsp_fields (h : p.extractLsb' 0 2 = 0b10#2) :
    encCSwsp (p.extractLsb' 13 3) (cImmSwsp p) (cRs2 p) = p := by
  unfold encCSwsp cImmSwsp cRs2
  rw [← h]
  refine eq_of_bits fun i hi => ?_
  interval_cases i <;> (simp only [BitVec.getLsbD_extractLsb', BitVec.getLsbD_append]; simp)

theorem encCSdsp_fields (h : p.extractLsb' 0 2 = 0b10#2) :
    encCSdsp (p.extractLsb' 13 3) (cImmSdsp p) (cRs2 p) = p := by
  unfold encCSdsp cImmSdsp cRs2
  rw [← h]
  refine eq_of_bits fun i hi => ?_
  interval_cases i <;> (simp only [BitVec.getLsbD_extractLsb', BitVec.getLsbD_append]; simp)

theorem encCJ_fields (h : p.extractLsb' 0 2 = 0b01#2) :
    encCJ (p.extractLsb' 13 3) (cOffJ p) = p := by
  unfold encCJ cOffJ
  rw [← h]
  refine eq_of_bits fun i hi => ?_
  interval_cases i <;> (simp only [BitVec.getLsbD_extractLsb', BitVec.getLsbD_append]; simp)

theorem encCB_fields (h : p.extractLsb' 0 2 = 0b01#2) :
    encCB (p.extractLsb' 13 3) (cHigh p) (cOffB p) = p := by
  unfold encCB cHigh cOffB
  rw [← h]
  refine eq_of_bits fun i hi => ?_
  interval_cases i <;> (simp only [BitVec.getLsbD_extractLsb', BitVec.getLsbD_append]; simp)

theorem encCAI_fields (hf : p.extractLsb' 13 3 = 0b100#3) (h : p.extractLsb' 0 2 = 0b01#2) :
    encCAI (p.extractLsb' 10 2) (cImm6 p) (cHigh p) = p := by
  unfold encCAI cImm6 cHigh
  rw [← hf, ← h]
  refine eq_of_bits fun i hi => ?_
  interval_cases i <;> (simp only [BitVec.getLsbD_extractLsb', BitVec.getLsbD_append]; simp)

theorem encCA_fields (h : p.extractLsb' 0 2 = 0b01#2) :
    encCA (p.extractLsb' 10 6) (p.extractLsb' 5 2) (cHigh p) (cLow p) = p := by
  unfold encCA cHigh cLow
  rw [← h]
  refine eq_of_bits fun i hi => ?_
  interval_cases i <;> (simp only [BitVec.getLsbD_extractLsb', BitVec.getLsbD_append]; simp)

theorem bits_12_4_eq (p : BitVec 16) :
    p.extractLsb' 12 4 = p.extractLsb' 13 3 ++ BitVec.ofBool (p.getLsbD 12) := by
  refine eq_of_bits fun i hi => ?_
  interval_cases i <;> (simp only [BitVec.getLsbD_extractLsb', BitVec.getLsbD_append]; simp)

theorem bits_10_6_eq (p : BitVec 16) :
    p.extractLsb' 10 6 = p.extractLsb' 13 3 ++ p.extractLsb' 12 1 ++ p.extractLsb' 10 2 := by
  refine eq_of_bits fun i hi => ?_
  interval_cases i <;> (simp only [BitVec.getLsbD_extractLsb', BitVec.getLsbD_append]; simp)

end

/-! ## Encoding what was decoded -/

/-- The instruction is well formed and `b` is its encoding. -/
def Instr.Encodes (x : Xlen) (i : Instr) (b : Bits) : Prop := encode i = b ∧ i.wf x = true

section
variable {x : Xlen} {w : BitVec 32} {i : Instr}

theorem decodeJalr_ok (hop : fOpcode w = 0b1100111#7) (h : decodeJalr w = .ok i) :
    i.Encodes x (.long w) := by
  unfold decodeJalr at h
  split at h <;> cases h
  exact ⟨congrArg Bits.long (.trans (by simp only [*]) (encI_fields w)), rfl⟩

theorem decodeBranch_ok (hop : fOpcode w = 0b1100011#7) (h : decodeBranch w = .ok i) :
    i.Encodes x (.long w) := by
  unfold decodeBranch at h
  split at h <;> cases h <;>
    exact ⟨congrArg Bits.long (.trans (by simp only [*]) (encB_fields w)), rfl⟩

theorem decodeLoad_ok (hop : fOpcode w = 0b0000011#7) (h : decodeLoad x w = .ok i) :
    i.Encodes x (.long w) := by
  unfold decodeLoad at h
  cases x <;> split at h <;> cases h <;>
    exact ⟨congrArg Bits.long (.trans (by simp only [*]) (encI_fields w)), rfl⟩

theorem decodeStore_ok (hop : fOpcode w = 0b0100011#7) (h : decodeStore x w = .ok i) :
    i.Encodes x (.long w) := by
  unfold decodeStore at h
  cases x <;> split at h <;> cases h <;>
    exact ⟨congrArg Bits.long (.trans (by simp only [*]) (encS_fields w)), rfl⟩

theorem onlyIf_ok {b : Bool} {j : Instr} (h : onlyIf b j = .ok i) : b = true ∧ j = i := by
  cases b <;> cases h
  exact ⟨rfl, rfl⟩

theorem decodeOpImm_ok (hop : fOpcode w = 0b0010011#7) (h : decodeOpImm x w = .ok i) :
    i.Encodes x (.long w) := by
  unfold decodeOpImm at h
  split at h
  case h_7 =>
    split at h
    · obtain ⟨hsh, rfl⟩ := onlyIf_ok h
      exact ⟨congrArg Bits.long (.trans (by simp only [*]) (encSh_fields w)), hsh⟩
    · cases h
  case h_8 =>
    split at h
    · obtain ⟨hsh, rfl⟩ := onlyIf_ok h
      exact ⟨congrArg Bits.long (.trans (by simp only [*]) (encSh_fields w)), hsh⟩
    · obtain ⟨hsh, rfl⟩ := onlyIf_ok h
      exact ⟨congrArg Bits.long (.trans (by simp only [*]) (encSh_fields w)), hsh⟩
    · cases h
  all_goals
    cases h <;> exact ⟨congrArg Bits.long (.trans (by simp only [*]) (encI_fields w)), rfl⟩

theorem decodeOp_ok (hop : fOpcode w = 0b0110011#7) (h : decodeOp w = .ok i) :
    i.Encodes x (.long w) := by
  unfold decodeOp at h
  split at h <;> cases h <;>
    exact ⟨congrArg Bits.long (.trans (by simp only [*]) (encR_fields w)), rfl⟩

theorem decodeOpImm32_ok (hop : fOpcode w = 0b0011011#7) (h : decodeOpImm32 x w = .ok i) :
    i.Encodes x (.long w) := by
  unfold decodeOpImm32 at h
  split at h
  next => cases x <;> cases h; exact ⟨congrArg Bits.long (.trans (by simp only [*]) (encI_fields w)), rfl⟩
  next =>
    cases x <;> split at h <;> cases h
    exact ⟨congrArg Bits.long (.trans (by simp only [*]) (encR_fields w)), rfl⟩
  next =>
    cases x <;> split at h <;> cases h <;>
      exact ⟨congrArg Bits.long (.trans (by simp only [*]) (encR_fields w)), rfl⟩
  next => cases h

theorem decodeOp32_ok (hop : fOpcode w = 0b0111011#7) (h : decodeOp32 x w = .ok i) :
    i.Encodes x (.long w) := by
  unfold decodeOp32 at h
  cases x <;> split at h <;> cases h <;>
    exact ⟨congrArg Bits.long (.trans (by simp only [*]) (encR_fields w)), rfl⟩

theorem decodeMiscMem_ok (hop : fOpcode w = 0b0001111#7) (h : decodeMiscMem w = .ok i) : i.Encodes x (.long w) := by
  unfold decodeMiscMem at h
  split at h <;> (try split at h) <;> cases h
  case h_1.isTrue hf =>
    obtain ⟨hm, hrs, hrd⟩ := hf
    have himm := fImmI_eq_fence w
    rw [hm] at himm
    exact ⟨congrArg Bits.long (.trans (by simp only [*]; rfl) (encI_fields w)), rfl⟩
  case h_2.isTrue hf =>
    obtain ⟨himm, hrs, hrd⟩ := hf
    exact ⟨congrArg Bits.long (.trans (by simp only [*]; rfl) (encI_fields w)), rfl⟩

theorem decodeSystem_ok (hop : fOpcode w = 0b1110011#7) (h : decodeSystem w = .ok i) : i.Encodes x (.long w) := by
  unfold decodeSystem at h
  split at h
  case h_7 =>
    split at h
    · cases h
    next hrd =>
    rw [ne_eq, not_not] at hrd
    split at h
    · cases h
      exact ⟨congrArg Bits.long (.trans (by simp only [*]) (encR_fields w)), rfl⟩
    split at h
    · cases h
    next hrs =>
    rw [ne_eq, not_not] at hrs
    split at h <;> cases h <;>
      exact ⟨congrArg Bits.long (.trans (by simp only [*]) (encI_fields w)), rfl⟩
  all_goals
    cases h <;> exact ⟨congrArg Bits.long (.trans (by simp only [*]) (encI_fields w)), rfl⟩

theorem decodeAmo_ok (hop : fOpcode w = 0b0101111#7) (h : decodeAmo x w = .ok i) : i.Encodes x (.long w) := by
  unfold decodeAmo at h
  cases x <;> split at h <;> (try split at h) <;> cases h <;>
    exact ⟨congrArg Bits.long (.trans (by simp only [*]) (encA_fields hop)), rfl⟩

theorem decodeLoadFp_ok (hop : fOpcode w = 0b0000111#7) (h : decodeLoadFp w = .ok i) :
    i.Encodes x (.long w) := by
  unfold decodeLoadFp at h
  split at h <;> cases h <;>
    exact ⟨congrArg Bits.long (.trans (by simp only [*]) (encI_fields w)), rfl⟩

theorem decodeStoreFp_ok (hop : fOpcode w = 0b0100111#7) (h : decodeStoreFp w = .ok i) :
    i.Encodes x (.long w) := by
  unfold decodeStoreFp at h
  split at h <;> cases h <;>
    exact ⟨congrArg Bits.long (.trans (by simp only [*]) (encS_fields w)), rfl⟩

theorem decodeFmadd_ok (hop : fOpcode w = 0b1000011#7) (h : decodeFmadd w = .ok i) :
    i.Encodes x (.long w) := by
  unfold decodeFmadd at h
  split at h <;> cases h <;>
    exact ⟨congrArg Bits.long (.trans (by simp only [*]) (encR4_fields w)), rfl⟩

theorem decodeFmsub_ok (hop : fOpcode w = 0b1000111#7) (h : decodeFmsub w = .ok i) :
    i.Encodes x (.long w) := by
  unfold decodeFmsub at h
  split at h <;> cases h <;>
    exact ⟨congrArg Bits.long (.trans (by simp only [*]) (encR4_fields w)), rfl⟩

theorem decodeFnmsub_ok (hop : fOpcode w = 0b1001011#7) (h : decodeFnmsub w = .ok i) :
    i.Encodes x (.long w) := by
  unfold decodeFnmsub at h
  split at h <;> cases h <;>
    exact ⟨congrArg Bits.long (.trans (by simp only [*]) (encR4_fields w)), rfl⟩

theorem decodeFnmadd_ok (hop : fOpcode w = 0b1001111#7) (h : decodeFnmadd w = .ok i) :
    i.Encodes x (.long w) := by
  unfold decodeFnmadd at h
  split at h <;> cases h <;>
    exact ⟨congrArg Bits.long (.trans (by simp only [*]) (encR4_fields w)), rfl⟩

theorem decodeOpFp_ok (hop : fOpcode w = 0b1010011#7) (h : decodeOpFp x w = .ok i) :
    i.Encodes x (.long w) := by
  unfold decodeOpFp at h
  cases x <;> split at h <;> (try split at h) <;> cases h <;>
    exact ⟨congrArg Bits.long (.trans (by simp only [*]) (encR_fields w)), rfl⟩

theorem decode32_ok (h : decode32 x w = .ok i) : i.Encodes x (.long w) := by
  unfold decode32 at h
  split at h
  next hop => cases h; exact ⟨congrArg Bits.long (.trans (by rw [hop]) (encU_fields w)), rfl⟩
  next hop => cases h; exact ⟨congrArg Bits.long (.trans (by rw [hop]) (encU_fields w)), rfl⟩
  next hop => cases h; exact ⟨congrArg Bits.long (.trans (by rw [hop]) (encJ_fields w)), rfl⟩
  next hop => exact decodeJalr_ok hop h
  next hop => exact decodeBranch_ok hop h
  next hop => exact decodeLoad_ok hop h
  next hop => exact decodeStore_ok hop h
  next hop => exact decodeOpImm_ok hop h
  next hop => exact decodeOp_ok hop h
  next hop => exact decodeMiscMem_ok hop h
  next hop => exact decodeSystem_ok hop h
  next hop => exact decodeOpImm32_ok hop h
  next hop => exact decodeOp32_ok hop h
  next hop => exact decodeAmo_ok hop h
  next hop => exact decodeLoadFp_ok hop h
  next hop => exact decodeStoreFp_ok hop h
  next hop => exact decodeFmadd_ok hop h
  next hop => exact decodeFmsub_ok hop h
  next hop => exact decodeFnmsub_ok hop h
  next hop => exact decodeFnmadd_ok hop h
  next hop => exact decodeOpFp_ok hop h
  next => cases h

end

/-! ### 16-bit parcels -/

theorem eq_three_of_ne : ∀ a : BitVec 2, a ≠ 0b00#2 → a ≠ 0b01#2 → a ≠ 0b10#2 → a = 0b11#2 := by decide

theorem eq_seven_of_ne : ∀ a : BitVec 3, a ≠ 0b000#3 → a ≠ 0b001#3 → a ≠ 0b010#3 → a ≠ 0b011#3 → a ≠ 0b100#3 →
    a ≠ 0b101#3 → a ≠ 0b110#3 → a = 0b111#3 := by bv_omega

section
variable {x : Xlen} {p : BitVec 16} {i : Instr}

theorem decodeQ0_ok (hq : p.extractLsb' 0 2 = 0b00#2) (h : decodeQ0 x p = .ok i) : i.Encodes x (.short p) := by
  unfold decodeQ0 at h
  split at h
  next hf =>
    obtain ⟨hi, rfl⟩ := onlyIf_ok h
    exact ⟨congrArg Bits.short (encC4spn_fields hf hq), hi⟩
  next => cases h; exact ⟨congrArg Bits.short (.trans (by simp only [*]) (encCD_fields hq)), rfl⟩
  next => cases h; exact ⟨congrArg Bits.short (.trans (by simp only [*]) (encCW_fields hq)), rfl⟩
  next =>
    split at h <;> cases h
    · exact ⟨congrArg Bits.short (.trans (by simp only [*]) (encCW_fields hq)), rfl⟩
    · exact ⟨congrArg Bits.short (.trans (by simp only [*]) (encCD_fields hq)), rfl⟩
  next => cases h; exact ⟨congrArg Bits.short (.trans (by simp only [*]) (encCD_fields hq)), rfl⟩
  next => cases h; exact ⟨congrArg Bits.short (.trans (by simp only [*]) (encCW_fields hq)), rfl⟩
  next =>
    split at h <;> cases h
    · exact ⟨congrArg Bits.short (.trans (by simp only [*]) (encCW_fields hq)), rfl⟩
    · exact ⟨congrArg Bits.short (.trans (by simp only [*]) (encCD_fields hq)), rfl⟩
  next => cases h

theorem decodeQ1Arith_ok (hq : p.extractLsb' 0 2 = 0b01#2) (hf : p.extractLsb' 13 3 = 0b100#3)
    (h : decodeQ1Arith x p = .ok i) : i.Encodes x (.short p) := by
  unfold decodeQ1Arith at h
  split at h
  next =>
    obtain ⟨hsh, rfl⟩ := onlyIf_ok h
    exact ⟨congrArg Bits.short (.trans (by simp only [*]) (encCAI_fields hf hq)), hsh⟩
  next =>
    obtain ⟨hsh, rfl⟩ := onlyIf_ok h
    exact ⟨congrArg Bits.short (.trans (by simp only [*]) (encCAI_fields hf hq)), hsh⟩
  next => cases h; exact ⟨congrArg Bits.short (.trans (by simp only [*]) (encCAI_fields hf hq)), rfl⟩
  next h0 h1 h2 =>
    have hr := eq_three_of_ne _ h0 h1 h2
    have h6 := bits_10_6_eq p
    rw [hf, hr] at h6
    cases x <;> split at h <;> cases h <;>
      exact ⟨congrArg Bits.short (.trans (by simp only [*]; rfl) (encCA_fields hq)), rfl⟩

theorem decodeQ1_ok (hq : p.extractLsb' 0 2 = 0b01#2) (h : decodeQ1 x p = .ok i) : i.Encodes x (.short p) := by
  unfold decodeQ1 at h
  split at h
  next =>
    split at h
    next => cases h; exact ⟨congrArg Bits.short (.trans (by simp only [*]) (encCI_fields p)), rfl⟩
    next hrd =>
      cases h
      exact ⟨congrArg Bits.short (.trans (by simp only [*]) (encCI_fields p)), decide_eq_true hrd⟩
  next =>
    split at h
    next => cases h; exact ⟨congrArg Bits.short (.trans (by simp only [*]) (encCJ_fields hq)), rfl⟩
    next =>
      obtain ⟨hrd, rfl⟩ := onlyIf_ok h
      exact ⟨congrArg Bits.short (.trans (by simp only [*]) (encCI_fields p)), hrd⟩
  next => cases h; exact ⟨congrArg Bits.short (.trans (by simp only [*]) (encCI_fields p)), rfl⟩
  next hf =>
    split at h
    next hrd =>
      obtain ⟨hi, rfl⟩ := onlyIf_ok h
      exact ⟨congrArg Bits.short (encC16sp_fields hf hrd hq), hi⟩
    next hrd =>
      obtain ⟨hi, rfl⟩ := onlyIf_ok h
      exact ⟨congrArg Bits.short (.trans (by simp only [*]) (encCI_fields p)),
        decide_eq_true ⟨hrd, of_decide_eq_true hi⟩⟩
  next hf => exact decodeQ1Arith_ok hq hf h
  next => cases h; exact ⟨congrArg Bits.short (.trans (by simp only [*]) (encCJ_fields hq)), rfl⟩
  next => cases h; exact ⟨congrArg Bits.short (.trans (by simp only [*]) (encCB_fields hq)), rfl⟩
  next h0 h1 h2 h3 h4 h5 h6 =>
    have hf := eq_seven_of_ne _ h0 h1 h2 h3 h4 h5 h6
    cases h
    exact ⟨congrArg Bits.short (.trans (by rw [hf]) (encCB_fields hq)), rfl⟩

/-- The rows of quadrant `10` with funct3 `100`: bit 12 and zero registers tell them apart. -/
theorem encodes_of_encCR {b : Bool} (hq : p.extractLsb' 0 2 = 0b10#2) (hf : p.extractLsb' 13 3 = 0b100#3)
    (hb : p.getLsbD 12 = b) (he : encode i = .short (encCR (0b100#3 ++ BitVec.ofBool b) (cRd p) (cRs2 p)))
    (hw : i.wf x = true) : i.Encodes x (.short p) := by
  refine ⟨he.trans (congrArg Bits.short ?_), hw⟩
  have h4 := bits_12_4_eq p
  rw [hf, hb] at h4
  rw [← h4, encCR_fields hq]

theorem decodeQ2_ok (hq : p.extractLsb' 0 2 = 0b10#2) (h : decodeQ2 x p = .ok i) : i.Encodes x (.short p) := by
  unfold decodeQ2 at h
  split at h
  next =>
    obtain ⟨hsh, rfl⟩ := onlyIf_ok h
    exact ⟨congrArg Bits.short (.trans (by simp only [*]) (encCI_fields p)), hsh⟩
  next => cases h; exact ⟨congrArg Bits.short (.trans (by simp only [*]) (encCLdsp_fields hq)), rfl⟩
  next =>
    obtain ⟨hrd, rfl⟩ := onlyIf_ok h
    exact ⟨congrArg Bits.short (.trans (by simp only [*]) (encCLwsp_fields hq)), hrd⟩
  next =>
    split at h
    next => cases h; exact ⟨congrArg Bits.short (.trans (by simp only [*]) (encCLwsp_fields hq)), rfl⟩
    next =>
      obtain ⟨hrd, rfl⟩ := onlyIf_ok h
      exact ⟨congrArg Bits.short (.trans (by simp only [*]) (encCLdsp_fields hq)), hrd⟩
  next hf =>
    split at h
    next hb =>
      split at h
      next hrs =>
        obtain ⟨hrd, rfl⟩ := onlyIf_ok h
        exact encodes_of_encCR hq hf hb (by rw [hrs]; rfl) hrd
      next hrs => cases h; exact encodes_of_encCR hq hf hb rfl (decide_eq_true hrs)
    next hb =>
      rw [Bool.not_eq_false] at hb
      split at h
      next hrs =>
        split at h
        next hrd => cases h; exact encodes_of_encCR hq hf hb (by rw [hrs, hrd]; rfl) rfl
        next hrd => cases h; exact encodes_of_encCR hq hf hb (by rw [hrs]; rfl) (decide_eq_true hrd)
      next hrs =>
        obtain ⟨hrd, rfl⟩ := onlyIf_ok h
        exact encodes_of_encCR hq hf hb rfl (decide_eq_true ⟨of_decide_eq_true hrd, hrs⟩)
  next => cases h; exact ⟨congrArg Bits.short (.trans (by simp only [*]) (encCSdsp_fields hq)), rfl⟩
  next => cases h; exact ⟨congrArg Bits.short (.trans (by simp only [*]) (encCSwsp_fields hq)), rfl⟩
  next h0 h1 h2 h3 h4 h5 h6 =>
    have hf := eq_seven_of_ne _ h0 h1 h2 h3 h4 h5 h6
    split at h <;> cases h
    · exact ⟨congrArg Bits.short (.trans (by rw [hf]) (encCSwsp_fields hq)), rfl⟩
    · exact ⟨congrArg Bits.short (.trans (by rw [hf]) (encCSdsp_fields hq)), rfl⟩

theorem decode16_ok (h : decode16 x p = .ok i) : i.Encodes x (.short p) := by
  unfold decode16 at h
  split at h
  next hq => exact decodeQ0_ok hq h
  next hq => exact decodeQ1_ok hq h
  next hq => exact decodeQ2_ok hq h
  next => cases h

end

theorem decodeBits_ok {x : Xlen} {b : Bits} {i : Instr} (h : decodeBits x b = .ok i) : i.Encodes x b := by
  cases b with
  | short p => exact decode16_ok h
  | long w => exact decode32_ok h

/-- What a decoding that succeeds says: the row is the bits', and its extension is present. -/
theorem decode_ok_iff {c : Config} {b : Bits} {i : Instr} :
    decode c b = .ok i ↔ decodeBits c.xlen b = .ok i ∧ i.extOk c = true := by
  unfold decode
  cases decodeBits c.xlen b with
  | error r => simp
  | ok j =>
    by_cases hj : j.extOk c = true
    · simp only [hj, if_true, Except.ok.injEq]
      exact ⟨fun h => ⟨h, h ▸ hj⟩, And.left⟩
    · simp only [hj, Except.ok.injEq]
      exact ⟨nofun, fun ⟨h, hi⟩ => absurd (h ▸ hi) hj⟩

end Sys2Proof

namespace Sys2Proof.Proofs

/-- Settles O4: the bits read back as the row that they encode (`decodeBits_encode`), and its extension is present. -/
theorem decodeEncode : Obligations.DecodeEncode :=
  fun _ _ hwf hext => decode_ok_iff.mpr ⟨decodeBits_encode hwf, hext⟩

/-- Settles O5: every row's decoder reads a word that is the row's format with its own fields (`decodeBits_ok`). -/
theorem encodeDecode : Obligations.EncodeDecode := by
  intro c b i h
  obtain ⟨hbits, hext⟩ := decode_ok_iff.mp h
  obtain ⟨henc, hwf⟩ := decodeBits_ok hbits
  exact ⟨henc, hwf, hext⟩

/-- Settles O3: each word is the encoding of its instruction, which is well formed and of a present extension. -/
theorem wordsDecode : Obligations.WordsDecode := by
  refine ⟨?add, ?addi, ?bltu, ?cLi, ?cMv, ?mret⟩
  case add => exact decodeEncode Config.default (.add 10 12 14) rfl rfl
  case addi => exact decodeEncode Config.default (.addi 5 6 1) rfl rfl
  case bltu => exact decodeEncode Config.default (.bltu 5 6 0x20) rfl rfl
  case cLi => exact decodeEncode Config.default (.cLi 14 1) rfl rfl
  case cMv => exact decodeEncode Config.default (.cMv 12 13) rfl rfl
  case mret => exact decodeEncode Config.default .mret rfl rfl

end Sys2Proof.Proofs
end

section
/-!
PROOFS. What an instruction and a step can do, said once (00_scope.md rule R6; 60_exceptions.md rule R730): `Ran` lists
the outcomes of an instruction, `step_cases` those of a step. Every statement about all steps is proved from these.
-/

namespace Sys2Proof.Machine

/-! ## What a CSR write can change -/

theorem State.putPmpByte_eq (s : State) (i : Nat) (b : BitVec 8) :
    ∃ cs, s.putPmpByte i b = { s with pmpcfg := cs } := by
  unfold State.putPmpByte
  split <;> exact ⟨_, rfl⟩

theorem State.putPmpBytes_eq (s : State) (i : Nat) (v : Word) (count : Nat) :
    ∃ cs, s.putPmpBytes i v count = { s with pmpcfg := cs } := by
  induction count generalizing s i v with
  | zero => exact ⟨_, rfl⟩
  | succ count ih =>
    obtain ⟨cs, h⟩ := s.putPmpByte_eq i (v.extractLsb' 0 8)
    obtain ⟨ds, k⟩ := ih { s with pmpcfg := cs } (i + 1) (v >>> 8)
    exact ⟨ds, by rw [State.putPmpBytes, h, k]⟩

theorem State.putPmpcfg_eq (s : State) (k : Nat) (v : Word) : ∃ cs, s.putPmpcfg k v = { s with pmpcfg := cs } := by
  unfold State.putPmpcfg
  split <;> exact s.putPmpBytes_eq _ _ _

theorem State.putPmpaddr_eq (s : State) (i : Fin 16) (v : Word) :
    ∃ as, s.putPmpaddr i v = { s with pmpaddr := as } := by
  unfold State.putPmpaddr
  split <;> exact ⟨_, rfl⟩

theorem State.putMip_eq (s : State) (mask v : Word) :
    ∃ a b c, s.putMip mask v = { s with ssip := a, stip := b, seip := c } := by
  unfold State.putMip
  split <;> exact ⟨_, _, _, rfl⟩

/-- `t` is `s` but for the control and status registers, and the vector state that a write of `vcfgd` resets: what a CSR
write can change. -/
def State.CsrWritten (s t : State) : Prop :=
  t = { s with
    fcsr := t.fcsr, mstatus := t.mstatus, mtvec := t.mtvec, mepc := t.mepc, mcause := t.mcause, mtval := t.mtval
    mscratch := t.mscratch, mie := t.mie, ssip := t.ssip, stip := t.stip, seip := t.seip, medeleg := t.medeleg
    mideleg := t.mideleg, pmpcfg := t.pmpcfg, pmpaddr := t.pmpaddr, stvec := t.stvec, sepc := t.sepc
    scause := t.scause, sscratch := t.sscratch, stval := t.stval, satp := t.satp, vcfgd := t.vcfgd, vtype := t.vtype
    vpOn := t.vpOn, vregs := t.vregs, vp := t.vp, vfill := t.vfill, free := t.free }

theorem State.csrWritten_putMip (s : State) (mask v : Word) : s.CsrWritten (s.putMip mask v) := by
  obtain ⟨a, b, c, h⟩ := s.putMip_eq mask v
  rw [h]
  rfl

theorem State.csrWritten_putPmpcfg (s : State) (k : Nat) (v : Word) : s.CsrWritten (s.putPmpcfg k v) := by
  obtain ⟨cs, h⟩ := s.putPmpcfg_eq k v
  rw [h]
  rfl

theorem State.csrWritten_putPmpaddr (s : State) (i : Fin 16) (v : Word) : s.CsrWritten (s.putPmpaddr i v) := by
  obtain ⟨as, h⟩ := s.putPmpaddr_eq i v
  rw [h]
  rfl

theorem State.csrWritten_csrWrite (s : State) (r : Csr) (v : Word) : s.CsrWritten (s.csrWrite r v) := by
  cases r
  case sip | mip => exact s.csrWritten_putMip _ _
  case pmpcfg => exact s.csrWritten_putPmpcfg _ _
  case pmpaddr => exact s.csrWritten_putPmpaddr _ _
  all_goals rfl

section
variable (s : State) (xs : Vector Word 32)

theorem State.putMip_withX (mask v : Word) :
    State.putMip { s with x := xs } mask v = { s.putMip mask v with x := xs } := by
  simp only [State.putMip]
  split <;> rfl

theorem State.putPmpByte_withX (i : Nat) (b : BitVec 8) :
    State.putPmpByte { s with x := xs } i b = { s.putPmpByte i b with x := xs } := by
  simp only [State.putPmpByte]
  split <;> rfl

theorem State.putPmpBytes_withX (i : Nat) (v : Word) (count : Nat) :
    State.putPmpBytes { s with x := xs } i v count = { s.putPmpBytes i v count with x := xs } := by
  induction count generalizing s i v with
  | zero => rfl
  | succ count ih => rw [State.putPmpBytes, State.putPmpByte_withX, ih, State.putPmpBytes]

theorem State.putPmpcfg_withX (k : Nat) (v : Word) :
    State.putPmpcfg { s with x := xs } k v = { s.putPmpcfg k v with x := xs } := by
  simp only [State.putPmpcfg]
  split <;> exact s.putPmpBytes_withX xs _ _ _

theorem State.putPmpaddr_withX (i : Fin 16) (v : Word) :
    State.putPmpaddr { s with x := xs } i v = { s.putPmpaddr i v with x := xs } := by
  have hl : State.pmpaddrLocked { s with x := xs } i.val = s.pmpaddrLocked i.val := rfl
  simp only [State.putPmpaddr, hl]
  split <;> rfl

/-- No CSR's write depends on an x register. -/
theorem State.csrWrite_withX (r : Csr) (v : Word) :
    State.csrWrite { s with x := xs } r v = { s.csrWrite r v with x := xs } := by
  cases r
  case sip | mip => exact s.putMip_withX xs _ _
  case pmpcfg => exact s.putPmpcfg_withX xs _ _
  case pmpaddr => exact s.putPmpaddr_withX xs _ _
  all_goals rfl

end

/-! ## What an instruction can do -/

/-- `u` is `s` after at most one access to memory: nothing, its addresses looked up, or the place found written. -/
inductive State.Accessed (s : State) : State → Prop
  | none : s.Accessed s
  | found {k : Access} {a : Word} {n : Nat} {u : State} {p : Place} (h : s.locate k a n = .ok (u, p)) : s.Accessed u
  | wrote {k : Access} {a : Word} {n : Nat} {u : State} {p : Place} (v : Word) (hk : k.writes = true)
      (h : s.locate k a n = .ok (u, p)) : s.Accessed (u.writePlace p n v)

/-- The reservation `r` after an instruction that accessed memory, in the state `u`: what the access left, none, or that
of an `lr`. -/
def State.Reserves (s u : State) (r : Option Reservation) : Prop :=
  r = u.reservation ∨ r = none ∨
  ∃ a n pa, (n = 4 ∨ n = 8) ∧ s.locate .loadReserved a n = .ok (u, .whole pa) ∧ r = some ⟨pa, n⟩

/-- What an instruction of `len` bytes can leave of the state `s`: it raises, goes on after at most one access, jumps,
accesses a CSR, returns from a trap, or waits. -/
inductive State.Ran (s : State) (len : Word) : State → Prop
  | raised (e : Trap) : s.Ran len (s.raise e)
  | wentOn {u t : State} (hu : s.Accessed u) (hr : s.Reserves u t.reservation)
      (ht : t = { u with x := t.x, f := t.f, fcsr := t.fcsr, reservation := t.reservation, tlb := t.tlb,
                         staleFetch := t.staleFetch, free := t.free, pc := s.pcPlus len, instret := s.instret + 1 }) :
      s.Ran len t
  | jumped {t : State} {target : Word} (hn : s.cfg.xlen.norm target = target) (ha : target &&& ~~~s.cfg.ialignMask = 0)
      (ht : t = { s with x := t.x, pc := target, instret := s.instret + 1 }) : s.Ran len t
  | wroteCsr {t : State} {a : BitVec 12} {r : Csr} (v : Word) (ha : csrOf s.cfg a = some r)
      (hp : csrPrivOk s.priv a = true) (hw : csrReadOnly a = false)
      (ht : t = { s.csrWrite r v with x := t.x, pc := s.pcPlus len, instret := s.instret + 1 }) : s.Ran len t
  | returnedM (h : s.priv = .m) : s.Ran len s.returnM
  | returnedS (hs : s.cfg.modes.hasS = true) (hp : s.priv ≠ .u) : s.Ran len s.returnS
  | waits (h : s.priv ≠ .u) : s.Ran len { s with waiting := true }

/-- The outcome is a next state that an instruction of `len` bytes can leave. -/
def State.Runs (s : State) (len : Word) (r : Result) : Prop := ∃ t, r = .next t ∧ s.Ran len t

section
variable {s : State} {len : Word}

theorem State.runs_raise (e : Trap) : s.Runs len (.next (s.raise e)) := ⟨_, rfl, .raised e⟩

/-- Outside the fields that an access can change, the state is as before. -/
theorem State.Accessed.written {u : State} (h : s.Accessed u) : s.Written u := by
  cases h with
  | none => rfl
  | found h => exact (State.lookedUp_locate h).written rfl
  | wrote v hk h => exact (State.lookedUp_locate h).written (State.written_writePlace _ _ _ _)

/-- An instruction that goes on after at most one access, and besides writes registers and draws. -/
theorem State.runs_retire {u t : State} (hu : s.Accessed u) (hr : s.Reserves u t.reservation)
    (ht : t = { u with x := t.x, f := t.f, fcsr := t.fcsr, reservation := t.reservation, tlb := t.tlb,
                       staleFetch := t.staleFetch, free := t.free }) : s.Runs len (.next (t.retire len)) := by
  have hw := hu.written
  have hpc : t.pcPlus len = s.pcPlus len := by rw [ht, hw]; rfl
  have hi : t.instret = s.instret := by rw [ht, hw]
  refine ⟨_, rfl, .wentOn hu hr ?_⟩
  simp only [State.retire, hpc, hi]
  conv_lhs => rw [ht]

/-- An instruction that accesses nothing. -/
theorem State.runs_local {t : State}
    (ht : t = { s with x := t.x, f := t.f, fcsr := t.fcsr, tlb := t.tlb, staleFetch := t.staleFetch }) :
    s.Runs len (.next (t.retire len)) := by
  have hr : t.reservation = s.reservation := by rw [ht]
  have hf : t.free = s.free := by rw [ht]
  exact State.runs_retire .none (.inl hr) (by rw [hr, hf]; exact ht)

theorem State.runs_writeX (rd : Reg) (v : Word) : s.Runs len (s.writeX rd v len) := State.runs_local rfl

theorem State.runs_rounded {i : Instr} {rm : BitVec 3} {op : Rm → State}
    (h : ∀ r, op r = { s with x := (op r).x, f := (op r).f, fcsr := (op r).fcsr }) :
    s.Runs 4 (s.rounded i rm op) := by
  rcases s.rounded_cases i rm op with ⟨_, hr⟩ | ⟨r, _, hr⟩
  · rw [hr]; exact State.runs_raise _
  · rw [hr]
    have ht : (op r).tlb = s.tlb ∧ (op r).staleFetch = s.staleFetch := by rw [h r]; exact ⟨rfl, rfl⟩
    exact State.runs_local (by rw [ht.1, ht.2]; exact h r)

/-! ### Jumps -/

theorem State.runs_jumpLink {rd : Reg} {target : Word} (hn : s.cfg.xlen.norm target = target) :
    s.Runs len (s.jumpLink rd target len) := by
  rcases s.jumpTo_cases target with ⟨ha, hj⟩ | ⟨_, hj⟩
  · rw [State.jumpLink, hj]; exact ⟨_, rfl, .jumped hn ha rfl⟩
  · rw [State.jumpLink, hj]; exact State.runs_raise _

theorem State.runs_branch {taken : Bool} {off : Word} : s.Runs len (s.branch taken off len) := by
  unfold State.branch
  cases taken with
  | false => exact State.runs_local rfl
  | true =>
    rcases s.jumpTo_cases (s.pcTarget off) with ⟨ha, hj⟩ | ⟨_, hj⟩
    · rw [if_pos rfl, hj]; exact ⟨_, rfl, .jumped (Xlen.norm_norm _ _) ha rfl⟩
    · rw [if_pos rfl, hj]; exact State.runs_raise _

theorem State.norm_jalrTarget (rs1 : Reg) (off : Word) :
    s.cfg.xlen.norm (s.jalrTarget rs1 off) = s.jalrTarget rs1 off := by
  refine BitVec.eq_of_getLsbD_eq fun i _ => ?_
  simp only [State.jalrTarget, Xlen.getLsbD_norm, BitVec.getLsbD_and]
  rw [← Bool.and_assoc, ← Bool.and_assoc, Bool.and_self]

/-! ### Accesses -/

theorem State.runs_loadX {rd : Reg} {a : Word} {n : Nat} {extend : Word → Word} :
    s.Runs len (s.loadX rd a n extend len) := by
  unfold State.loadX State.memRead
  cases h : s.locate .load a n with
  | error e => exact State.runs_raise e
  | ok q => exact State.runs_retire (.found h) (.inl rfl) rfl

theorem State.runs_loadF32 {rd : Reg} {a : Word} : s.Runs len (s.loadF32 rd a len) := by
  unfold State.loadF32 State.memRead
  cases h : s.locate .load a 4 with
  | error e => exact State.runs_raise e
  | ok q => exact State.runs_retire (.found h) (.inl rfl) rfl

theorem State.runs_loadF64 {rd : Reg} {a : Word} : s.Runs len (s.loadF64 rd a len) := by
  unfold State.loadF64 State.memRead
  cases h : s.locate .load a 8 with
  | error e => exact State.runs_raise e
  | ok q => exact State.runs_retire (.found h) (.inl rfl) rfl

theorem State.runs_storeTo {a : Word} {n : Nat} {v : Word} : s.Runs len (s.storeTo a n v len) := by
  unfold State.storeTo State.memWrite
  cases h : s.locate .store a n with
  | error e => exact State.runs_raise e
  | ok q => exact State.runs_retire (.wrote v rfl h) (.inl rfl) rfl

theorem State.runs_loadReserved {rd rs1 : Reg} {n : Nat} {extend : Word → Word} (hn : n = 4 ∨ n = 8) :
    s.Runs 4 (s.loadReserved rd rs1 n extend) := by
  unfold State.loadReserved
  cases h : s.locate .loadReserved (s.getX rs1) n with
  | error e => exact State.runs_raise e
  | ok q =>
    obtain ⟨u, p⟩ := q
    cases p with
    | bytes pas => exact State.runs_retire (.found h) (.inl rfl) rfl
    | whole pa => exact State.runs_retire (.found h) (.inr (.inr ⟨_, _, _, hn, h, rfl⟩)) rfl

theorem State.runs_storeConditional {rd rs2 rs1 : Reg} {n : Nat} : s.Runs 4 (s.storeConditional rd rs2 rs1 n) := by
  unfold State.storeConditional
  cases h : s.locate .storeConditional (s.getX rs1) n with
  | error e => exact State.runs_raise e
  | ok q =>
    obtain ⟨u, p⟩ := q
    cases p with
    | bytes pas => exact State.runs_retire (.found h) (.inl rfl) rfl
    | whole pa =>
      simp only
      split
      · exact State.runs_retire (.wrote _ rfl h) (.inr (.inl rfl)) rfl
      · exact State.runs_retire (.found h) (.inr (.inl rfl)) rfl

/-- Counting a draw before a write or after it is the same. -/
theorem State.writePlace_readDone (u : State) (p : Place) (n : Nat) (v : Word) :
    (u.readDone p n).writePlace p n v = { u.writePlace p n v with free := (u.readDone p n).free } := by
  unfold State.writePlace
  simp only [State.readDone_cfg]
  cases p.dev u.cfg n with
  | none => rfl
  | some r => cases r <;> rfl

theorem State.runs_amo {rd rs2 rs1 : Reg} {n : Nat} {op : Word → Word → Word} {extend : Word → Word} :
    s.Runs 4 (s.amo rd rs2 rs1 n op extend) := by
  unfold State.amo
  cases h : s.locate .amo (s.getX rs1) n with
  | error e => exact State.runs_raise e
  | ok q =>
    simp only [State.writePlace_readDone]
    exact State.runs_retire (.wrote _ rfl h) (.inl rfl) rfl

/-! ### System instructions -/

theorem State.runs_csrAccess {i : Instr} {rd : Reg} {a : BitVec 12} {new : Option (Word → Word)} :
    s.Runs 4 (s.csrAccess i rd a new) := by
  rcases s.csrAccess_cases i rd a new with h | ⟨r, ha, hp, hw, h⟩
  · rw [h]; exact State.runs_raise _
  · rw [h]
    cases new with
    | none => exact State.runs_local rfl
    | some g =>
      have hx : (s.setX rd (s.csrRead r)).csrWrite r (g (s.csrRead r)) =
          { s.csrWrite r (g (s.csrRead r)) with x := (s.setX rd (s.csrRead r)).x } := s.csrWrite_withX _ r _
      have hc := s.csrWritten_csrWrite r (g (s.csrRead r))
      have hpc : (s.csrWrite r (g (s.csrRead r))).pcPlus 4 = s.pcPlus 4 := by rw [hc]; rfl
      have hi : (s.csrWrite r (g (s.csrRead r))).instret = s.instret := by rw [hc]
      refine ⟨_, rfl, .wroteCsr (g (s.csrRead r)) ha hp (hw rfl) ?_⟩
      simp only [hx, State.retire, hi, ← hpc]
      rfl

theorem State.runs_mret : s.Runs len (execMret s) := by
  unfold execMret
  split
  next h => exact ⟨_, rfl, .returnedM h⟩
  next => exact State.runs_raise _

theorem State.runs_sret : s.Runs len (execSret s) := by
  unfold execSret
  split
  next h => exact ⟨_, rfl, .returnedS h.1 h.2⟩
  next => exact State.runs_raise _

theorem State.runs_wfi : s.Runs 4 (execWfi s) := by
  unfold execWfi
  split
  next => exact State.runs_raise _
  next h =>
    split
    · exact State.runs_local rfl
    · exact ⟨_, rfl, .waits h⟩

theorem State.runs_sfenceVma {rs1 rs2 : Reg} : s.Runs 4 (execSfenceVma rs1 rs2 s) := by
  unfold execSfenceVma
  split
  · exact State.runs_local rfl
  · exact State.runs_raise _

end

/-! ### Every instruction -/

/-- What any instruction can do, in any state. -/
theorem exec_runs (i : Instr) (s : State) : s.Runs (encode i).len (exec i s) := by
  cases i
  case jal => exact State.runs_jumpLink (Xlen.norm_norm _ _)
  case jalr => exact State.runs_jumpLink (s.norm_jalrTarget _ _)
  case beq | bne | blt | bge | bltu | bgeu => exact State.runs_branch
  case lb | lh | lw | lbu | lhu | lwu | ld => exact State.runs_loadX
  case sb | sh | sw | sd => exact State.runs_storeTo
  case lui | auipc | addi | slti | sltiu | xori | ori | andi | slli | srli | srai | add | sub | sll | slt | sltu | xor
    | srl | sra | or | and | addiw | slliw | srliw | sraiw | addw | subw | sllw | srlw | sraw | mul | mulh | mulhsu
    | mulhu | div | divu | rem | remu | mulw | divw | divuw | remw | remuw => exact State.runs_writeX _ _
  case fence | fenceI => exact State.runs_local rfl
  case ecall | ebreak => exact State.runs_raise _
  case csrrw | csrrs | csrrc | csrrwi | csrrsi | csrrci => exact State.runs_csrAccess
  case lrW => exact State.runs_loadReserved (.inl rfl)
  case lrD => exact State.runs_loadReserved (.inr rfl)
  case scW | scD => exact State.runs_storeConditional
  case amoswapD rd rs2 rs1 aq rl => rw [exec_amoswapD]; exact State.runs_amo
  case amoswapW | amoaddW | amoxorW | amoandW | amoorW | amominW | amomaxW | amominuW | amomaxuW | amoaddD | amoxorD
    | amoandD | amoorD | amominD | amomaxD | amominuD | amomaxuD => exact State.runs_amo
  case flw => exact State.runs_loadF32
  case fld => exact State.runs_loadF64
  case fsw | fsd => exact State.runs_storeTo
  case mret => exact State.runs_mret
  case sret => exact State.runs_sret
  case wfi => exact State.runs_wfi
  case sfenceVma => exact State.runs_sfenceVma
  case cAddi4spn | cAddi | cAddiw | cLi | cAddi16sp | cLui | cSrli | cSrai | cAndi | cSub | cXor | cOr | cAnd | cSubw
    | cAddw | cSlli | cMv | cAdd => exact State.runs_writeX _ _
  case cNop => exact State.runs_local rfl
  case cFld | cFldsp => exact State.runs_loadF64
  case cFlw | cFlwsp => exact State.runs_loadF32
  case cLw | cLd | cLwsp | cLdsp => exact State.runs_loadX
  case cFsd | cSw | cFsw | cSd | cFsdsp | cSwsp | cFswsp | cSdsp => exact State.runs_storeTo
  case cJal | cJ => exact State.runs_jumpLink (Xlen.norm_norm _ _)
  case cJr | cJalr => exact State.runs_jumpLink (s.norm_jalrTarget _ _)
  case cBeqz | cBnez => exact State.runs_branch
  case cEbreak => exact State.runs_raise _
  case fclassS | fclassD | fmvXW | fmvXD => exact State.runs_writeX _ _
  case fmvWX | fmvDX | fsgnjS | fsgnjD | fsgnjnS | fsgnjnD | fsgnjxS | fsgnjxD | fminS | fminD | fmaxS | fmaxD | feqS
    | feqD | fltS | fltD | fleS | fleD => exact State.runs_local rfl
  case fmaddS | fmaddD | fmsubS | fmsubD | fnmsubS | fnmsubD | fnmaddS | fnmaddD | faddS | faddD | fsubS | fsubD
    | fmulS | fmulD | fdivS | fdivD | fsqrtS | fsqrtD | fcvtWS | fcvtWD | fcvtWuS | fcvtWuD | fcvtSW | fcvtDW
    | fcvtSWu | fcvtDWu | fcvtSD | fcvtDS | fcvtLS | fcvtLD | fcvtLuS | fcvtLuD | fcvtSL | fcvtDL | fcvtSLu
    | fcvtDLu => exact State.runs_rounded fun _ => rfl

/-! ## What a step can do -/

/-- The length of an instruction: a short one needs C. -/
theorem encode_len_cases {c : Config} (i : Instr) (h : i.extOk c = true) :
    (encode i).len = 4 ∨ ((encode i).len = 2 ∧ c.ext.c = true) := by
  cases i
  case cAddi4spn | cLw | cLd | cSw | cSd | cNop | cAddi | cJal | cAddiw | cLi | cAddi16sp | cLui | cSrli | cSrai | cAndi
    | cSub | cXor | cOr | cAnd | cSubw | cAddw | cJ | cBeqz | cBnez | cSlli | cLwsp | cLdsp | cEbreak | cJr | cJalr
    | cMv | cAdd | cSwsp | cSdsp => exact .inr ⟨rfl, h⟩
  case cFld | cFsd | cFldsp | cFsdsp | cFlw | cFsw | cFlwsp | cFswsp =>
    exact .inr ⟨rfl, (Bool.and_eq_true_iff.mp h).1⟩
  all_goals exact .inl rfl

/-- What a step comes to before the environment's turn. -/
inductive State.Stepped (s : State) : State → Prop
  | waited (hw : s.waiting = true) : s.Stepped s.waitOn
  | interrupted (i : Intr) (hi : s.nextInterrupt = some i) : s.Stepped (s.interrupt i)
  | fetchRaised (e : Trap) (hf : s.fetch = .error e) : s.Stepped (s.raise e)
  | undecodable {u : State} {b : Bits} (r : Reject) (hf : s.fetch = .ok (u, b)) (hd : decode s.cfg b = .error r) :
      s.Stepped (u.raise ⟨.illegalInstruction, b.toWord⟩)
  | executed {u t : State} {b : Bits} {i : Instr} (hf : s.fetch = .ok (u, b)) (hd : decode s.cfg b = .ok i)
      (ht : u.Ran (encode i).len t) : s.Stepped t

theorem step_cases (s : State) : ∃ t, s.Stepped t ∧ step s = .next t.tick := by
  unfold step
  rcases s.front_cases with ⟨hw, hf⟩ | ⟨i, _, hi, hf⟩ | ⟨_, _, ⟨e, he, hf⟩ | ⟨u, b, r, he, hd, hf⟩ | ⟨u, b, i, he, hd, hf⟩⟩
  · rw [hf]; exact ⟨_, .waited hw, rfl⟩
  · rw [hf]; exact ⟨_, .interrupted i hi, rfl⟩
  · rw [hf]; exact ⟨_, .fetchRaised e he, rfl⟩
  · rw [hf]; exact ⟨_, .undecodable r he hd, rfl⟩
  · obtain ⟨t, ht, hr⟩ := exec_runs i u
    rw [hf]
    exact ⟨t, .executed he hd hr, by simp only [ht, ticked]⟩

/-- The state before the environment's turn, of a step that gave `t`. -/
theorem stepped_of_step {s t : State} (h : step s = .next t) : ∃ u, s.Stepped u ∧ t = u.tick := by
  obtain ⟨u, hu, hs⟩ := step_cases s
  rw [hs] at h
  cases h
  exact ⟨u, hu, rfl⟩

end Sys2Proof.Machine

namespace Sys2Proof.Proofs

open Sys2Proof.Machine

/-- Settles O9: every outcome of `step_cases` and of `exec_runs` is a next state. -/
theorem nothingStops : Obligations.NothingStops := by
  refine ⟨fun s => ?_, fun i s => ?_⟩
  · obtain ⟨t, _, ht⟩ := step_cases s
    exact ⟨t.tick, ht⟩
  · obtain ⟨t, ht, _⟩ := exec_runs i s
    exact ⟨t, ht⟩

end Sys2Proof.Proofs
end

section
/-!
PROOFS. What every step keeps (10_state.md rules R25 to R61; 20_memory.md rules R100, R120 to R127; 43_a.md rules R362,
R365; 60_exceptions.md rule R760): each invariant from the list of outcomes `State.Stepped`.
-/

namespace Sys2Proof.Machine

/-! ## The environment's turn -/

/-- `t` is `s` but for memory, the reservation, the counters, the inputs and the lines: what the environment's turn can
change. -/
def State.TurnTaken (s t : State) : Prop :=
  t = { s with
    mem := t.mem, reservation := t.reservation, cycle := t.cycle, mtime := t.mtime, meipLine := t.meipLine
    seipLine := t.seipLine, msip := t.msip, inputs := t.inputs }

theorem State.turnTaken_otherWrites (s : State) (cs : List Host.Cell) : s.TurnTaken (s.otherWrites cs) := by
  induction cs generalizing s with
  | nil => rfl
  | cons c cs ih =>
    have h := ih { s with mem := s.mem.write c.1 c.2, reservation := keepReservation s.reservation [c.1] }
    unfold State.TurnTaken at *
    rw [State.otherWrites, h]

theorem State.turnTaken_tick (s : State) : s.TurnTaken s.tick := by
  unfold State.tick
  split
  · rfl
  · next i is _ =>
    have h := s.turnTaken_otherWrites i.writes
    unfold State.TurnTaken at *
    simp only [State.applyInput]
    rw [h]

/-! ## What a lookup keeps -/

/-- What caching a translation and updating a page-table entry both keep, so every lookup of addresses keeps it. -/
structure LookupKeeps (P : State → Prop) : Prop where
  cache : ∀ (s : State) (va pte : Word) (i : Nat), P s → P (s.cacheLeaf va pte i)
  update : ∀ (s t : State) (pa : Nat) (pte : Word), P s → s.pteWrite pa pte = some t → P t

namespace LookupKeeps

variable {P : State → Prop} (k : LookupKeeps P)
include k

theorem useLeaf {s t : State} {a : Access} {p : Priv} {va : Word} {leaf : Leaf} {pa : Nat} (hs : P s)
    (h : s.useLeaf a p va leaf = .ok (t, pa)) : P t := by
  obtain ⟨pte, i, at_⟩ := leaf
  simp only [State.useLeaf] at h
  split at h
  · cases h
  split at h
  · cases h; exact k.cache _ _ _ _ hs
  split at h
  · cases h
  split at h
  · cases h
  · next u hu => cases h; exact k.cache _ _ _ _ (k.update _ _ _ _ hs hu)

theorem translate {s t : State} {a : Access} {p : Priv} {va : Word} {pa : Nat} (hs : P s)
    (h : s.translate p a va = .ok (t, pa)) : P t := by
  unfold State.translate at h
  split at h
  · cases h; exact hs
  split at h
  · cases h
  split at h
  · split at h
    · cases h; exact hs
    · cases h
  · split at h
    · cases h
    · exact k.useLeaf hs h

theorem locateOne {s t : State} {a : Access} {va : Word} {n pa : Nat} (hs : P s)
    (h : s.locateOne a va n = .ok (t, pa)) : P t := by
  unfold State.locateOne at h
  split at h
  · cases h
  · next hu =>
    split at h <;> cases h
    exact k.translate hs hu

theorem locateBytes {a : Access} {n : Nat} {s t : State} {va : Word} {pas : List Nat} (hs : P s)
    (h : s.locateBytes a va n = .ok (t, pas)) : P t := by
  induction n generalizing s t va pas with
  | zero => cases h; exact hs
  | succ n ih =>
    simp only [State.locateBytes] at h
    split at h
    · cases h
    · next hu =>
      split at h <;> cases h
      next hv => exact ih (k.locateOne hs hu) hv

theorem locate {s t : State} {a : Access} {va : Word} {n : Nat} {p : Place} (hs : P s)
    (h : s.locate a va n = .ok (t, p)) : P t := by
  unfold State.locate at h
  split at h
  · split at h <;> cases h
    next hu => exact k.locateOne hs hu
  split at h
  · cases h
  · split at h <;> cases h
    next hu => exact k.locateBytes hs hu

theorem fetchParcel {s t : State} {a : Word} {b : BitVec 16} (hs : P s) (h : s.fetchParcel a = .ok (t, b)) : P t := by
  unfold State.fetchParcel at h
  split at h
  · cases h
  · next hu =>
    split at h <;> cases h
    exact k.translate hs hu

theorem fetch {s t : State} {b : Bits} (hs : P s) (h : s.fetch = .ok (t, b)) : P t := by
  unfold State.fetch at h
  split at h
  · cases h
  · next hu =>
    split at h
    · split at h <;> cases h
      next hv => exact k.fetchParcel (k.fetchParcel hs hu) hv
    · cases h; exact k.fetchParcel hs hu

/-- What a write of the place found keeps too, an access keeps. -/
theorem accessed {s u : State} (hw : ∀ (a : Access) (va : Word) (n : Nat) (t : State) (p : Place) (v : Word),
      a.writes = true → s.locate a va n = .ok (t, p) → P t → P (t.writePlace p n v))
    (hs : P s) (h : s.Accessed u) : P u := by
  cases h with
  | none => exact hs
  | found h => exact k.locate hs h
  | wrote v ha h => exact hw _ _ _ _ _ v ha h (k.locate hs h)

end LookupKeeps

/-- What holds of a page-table update: it is a store of the entry that the checks of a store in S-mode let through. -/
theorem State.pteWrite_eq_some {s t : State} {pa : Nat} {pte : Word} (h : s.pteWrite pa pte = some t) :
    s.pmpOk pa (pteSize s.cfg.xlen) .store .s = true ∧ t = s.storeBytes (addrsFrom pa (pteSize s.cfg.xlen)) pte.toNat := by
  simp only [State.pteWrite] at h
  split at h
  · next hc =>
    cases h
    simp only [Bool.and_eq_true] at hc
    exact ⟨hc.1.1, rfl⟩
  · cases h

/-! ## What a write leaves of memory's form, the mode, pc, the CSRs and the reservation -/

section
variable {s t u : State}

theorem State.Accessed.cfg (h : s.Accessed u) : u.cfg = s.cfg := by rw [h.written]

/-- The state in which an instruction runs, after its fetch. -/
theorem State.fetch_eq {b : Bits} (h : s.fetch = .ok (u, b)) :
    u = { s with mem := u.mem, staleFetch := u.staleFetch, reservation := u.reservation, tlb := u.tlb } :=
  State.lookedUp_fetch h

/-- Taking a trap: to S-mode where the trap is delegated, else to M-mode. -/
theorem State.takeTrap_cases (s : State) (isInt : Bool) (code : Nat) (epc tval : Word) :
    (s.cfg.modes.hasS = true ∧ s.takeTrap isInt code epc tval =
      { s with
        sepc := epc
        scause := causeWord s.cfg.xlen isInt code
        stval := s.cfg.xlen.norm tval
        mstatus := { s.mstatus with spie := s.mstatus.sie, sie := false, spp := s.priv == .s }
        priv := .s
        pc := trapVector s.cfg.xlen s.stvec isInt code }) ∨
    s.takeTrap isInt code epc tval =
      { s with
        mepc := epc
        mcause := causeWord s.cfg.xlen isInt code
        mtval := s.cfg.xlen.norm tval
        mstatus := { s.mstatus with mpie := s.mstatus.mie, mie := false, mpp := s.priv }
        priv := .m
        pc := trapVector s.cfg.xlen s.mtvec isInt code } := by
  unfold State.takeTrap
  split
  · next h =>
    simp only [State.delegated, Bool.and_eq_true] at h
    exact .inl ⟨h.1.1, rfl⟩
  · exact .inr rfl

end

end Sys2Proof.Machine

namespace Sys2Proof.Proofs

open Sys2Proof.Machine

/-! ## The memory's canonical form -/

theorem lookupKeeps_wf : LookupKeeps fun s => s.mem.wf = true where
  cache _ _ _ _ h := h
  update _ _ _ _ h he := State.wf_pteWrite h he

theorem wf_tick {s : State} (h : s.mem.wf = true) : s.tick.mem.wf = true := by
  unfold State.tick
  split
  · exact h
  · exact State.wf_otherWrites _ h

theorem mem_takeTrap (s : State) (isInt : Bool) (code : Nat) (epc tval : Word) :
    (s.takeTrap isInt code epc tval).mem = s.mem := by
  rcases s.takeTrap_cases isInt code epc tval with ⟨_, h⟩ | h <;> rw [h]

theorem wf_ran {s t : State} {len : Word} (hs : s.mem.wf = true) (h : s.Ran len t) : t.mem.wf = true := by
  cases h with
  | raised e => exact (mem_takeTrap _ _ _ _ _).symm ▸ hs
  | wentOn hu _ ht =>
    have hwf := lookupKeeps_wf.accessed (fun _ _ _ _ _ _ _ _ h => State.wf_writePlace _ _ _ h) hs hu
    rw [ht]
    exact hwf
  | jumped _ _ ht => rw [ht]; exact hs
  | wroteCsr v _ _ _ ht =>
    rw [ht, s.csrWritten_csrWrite _ v]
    exact hs
  | returnedM | returnedS | waits => exact hs

theorem wf_stepped {s t : State} (hs : s.mem.wf = true) (h : s.Stepped t) : t.mem.wf = true := by
  cases h with
  | waited =>
    unfold State.waitOn
    split <;> exact hs
  | interrupted | fetchRaised => exact (mem_takeTrap _ _ _ _ _).symm ▸ hs
  | undecodable _ hf => exact (mem_takeTrap _ _ _ _ _).symm ▸ lookupKeeps_wf.fetch hs hf
  | executed hf _ ht => exact wf_ran (lookupKeeps_wf.fetch hs hf) ht

/-- Settles O52: every write of a step keeps the form. -/
theorem stepKeepsMemoryForm : Obligations.StepKeepsMemoryForm := by
  intro s t hs h
  obtain ⟨u, hu, rfl⟩ := stepped_of_step h
  exact wf_tick (wf_stepped hs hu)

/-! ## The mode -/

theorem hasU_of_hasS {modes : Modes} (h : modes.hasS = true) : modes.hasU = true := by
  cases modes with
  | m | mu => cases h
  | msu => rfl

theorem modeLegal_congr {s t : State} (hc : t.cfg = s.cfg) (hp : t.priv = s.priv) (hm : t.mstatus.mpp = s.mstatus.mpp)
    (h : s.ModeLegal) : t.ModeLegal := by
  unfold State.ModeLegal State.implements State.mppField at *
  rw [hc, hp, hm]
  exact h

/-- MPP is legal in a state whose mode bits are those of an implemented mode. -/
theorem implements_mppField {s : State} (h : s.implements s.mstatus.mpp = true) : s.implements s.mppField = true := by
  unfold State.mppField
  split
  · exact h
  · rfl

theorem modeLegal_takeTrap {s : State} (h : s.ModeLegal) (isInt : Bool) (code : Nat) (epc tval : Word) :
    (s.takeTrap isInt code epc tval).ModeLegal := by
  obtain ⟨hpriv, hmpp⟩ := h
  rcases s.takeTrap_cases isInt code epc tval with ⟨hs, h⟩ | h
  · rw [h]; exact ⟨hs, hmpp⟩
  · rw [h]; exact ⟨rfl, implements_mppField hpriv⟩

/-- A code that names a mode names one that is implemented. -/
theorem implements_of_privOfCode {s : State} {c : BitVec 2} {p : Priv} (h : privOfCode s.cfg.modes c = some p) :
    s.implements p = true := by
  unfold privOfCode at h
  split at h
  · cases h; rfl
  split at h
  · split at h <;> cases h; assumption
  split at h
  · split at h <;> cases h; assumption
  · cases h

theorem modeLegal_putMstatus {s : State} (h : s.ModeLegal) (v : Word) :
    State.ModeLegal { s with mstatus := s.putMstatus v } := by
  obtain ⟨hpriv, hmpp⟩ := h
  refine ⟨hpriv, ?_⟩
  cases hc : privOfCode s.cfg.modes (v.extractLsb' 11 2) with
  | none =>
    have : (s.putMstatus v).mpp = s.mstatus.mpp := by simp only [State.putMstatus, hc, Option.getD_none]
    unfold State.mppField at *
    simp only [this]
    exact hmpp
  | some p =>
    have : (s.putMstatus v).mpp = p := by simp only [State.putMstatus, hc, Option.getD_some]
    refine implements_mppField ?_
    simp only [this]
    exact implements_of_privOfCode hc

theorem State.putSFields_mpp (s : State) (v : Word) : (s.putSFields v).mpp = s.mstatus.mpp := by
  unfold State.putSFields
  split <;> rfl

theorem modeLegal_csrWrite {s : State} (h : s.ModeLegal) (r : Csr) (v : Word) : (s.csrWrite r v).ModeLegal := by
  cases r
  case mstatus => exact modeLegal_putMstatus h v
  case sstatus => exact modeLegal_congr (s := s) (t := s.csrWrite .sstatus v) rfl rfl (State.putSFields_mpp s v) h
  case sip | mip =>
    obtain ⟨a, b, c, he⟩ := s.putMip_eq ?_ v
    exact (congrArg State.ModeLegal he).mpr h
  case pmpcfg k =>
    obtain ⟨cs, he⟩ := s.putPmpcfg_eq k.val v
    exact (congrArg State.ModeLegal he).mpr h
  case pmpaddr i =>
    obtain ⟨as, he⟩ := s.putPmpaddr_eq i v
    exact (congrArg State.ModeLegal he).mpr h
  all_goals exact h

theorem modeLegal_ran {s t : State} {len : Word} (hs : s.ModeLegal) (h : s.Ran len t) : t.ModeLegal := by
  cases h with
  | raised e => exact modeLegal_takeTrap hs _ _ _ _
  | wentOn hu _ ht =>
    rw [ht, hu.written]
    exact hs
  | jumped _ _ ht => rw [ht]; exact hs
  | wroteCsr v _ _ _ ht =>
    have hw := modeLegal_csrWrite hs ‹Csr› v
    rw [ht]
    exact hw
  | returnedM =>
    refine ⟨hs.2, implements_mppField ?_⟩
    cases hu : s.cfg.modes.hasU
    · simp only [State.returnM, hu]; rfl
    · simp only [State.returnM, hu]; exact hu
  | returnedS hasS =>
    refine ⟨?_, hs.2⟩
    simp only [State.returnS]
    split
    · exact hasS
    · exact hasU_of_hasS hasS
  | waits => exact hs

theorem modeLegal_stepped {s t : State} (hs : s.ModeLegal) (h : s.Stepped t) : t.ModeLegal := by
  cases h with
  | waited =>
    unfold State.waitOn
    split <;> exact hs
  | interrupted | fetchRaised => exact modeLegal_takeTrap hs _ _ _ _
  | undecodable _ hf =>
    refine modeLegal_takeTrap ?_ _ _ _ _
    rw [State.fetch_eq hf]; exact hs
  | executed hf _ ht =>
    refine modeLegal_ran ?_ ht
    rw [State.fetch_eq hf]; exact hs

/-- Settles O53: traps go to implemented modes, returns to modes that were saved, and a write of MPP takes no other. -/
theorem stepKeepsMode : Obligations.StepKeepsMode := by
  intro s t hs h
  obtain ⟨u, hu, rfl⟩ := stepped_of_step h
  have hl := modeLegal_stepped hs hu
  rw [u.turnTaken_tick]
  exact hl

end Sys2Proof.Proofs
end

section
/-!
PROOFS. What every step keeps of pc and the CSR fields (10_state.md rules R25, R26, R49, R55, R57, R61).
-/

namespace Sys2Proof.Machine

/-! ## Instruction addresses -/

theorem State.ialign_cases (s : State) :
    (s.ialign = 2 ∧ s.cfg.ialignMask = ~~~1#64 ∧ s.cfg.ext.c = true) ∨ (s.ialign = 4 ∧ s.cfg.ialignMask = ~~~3#64) := by
  unfold State.ialign Config.ialignMask
  cases s.cfg.ext.c
  · exact .inr ⟨rfl, rfl⟩
  · exact .inl ⟨rfl, rfl, rfl⟩

theorem State.ialign_dvd_four (s : State) : s.ialign ∣ 4 := by
  rcases s.ialign_cases with ⟨h, _⟩ | ⟨h, _⟩
  · rw [h]; decide
  · rw [h]

/-- Clearing bit 0 of an address. -/
theorem evenBase_toNat (v : Word) : (v &&& ~~~1#64).toNat = v.toNat / 2 * 2 := by
  have hbase : v &&& ~~~1#64 = (v >>> 1) <<< 1 := by
    refine BitVec.eq_of_getLsbD_eq fun i hi => ?_
    interval_cases i <;> simp
  rw [hbase, BitVec.toNat_shiftLeft, BitVec.toNat_ushiftRight, Nat.shiftLeft_eq, Nat.shiftRight_eq_div_pow]
  have := v.isLt
  omega

/-- The alignment mask as arithmetic. -/
theorem State.ialignMask_toNat (s : State) (v : Word) : (v &&& s.cfg.ialignMask).toNat = v.toNat / s.ialign * s.ialign := by
  rcases s.ialign_cases with ⟨h, hm, _⟩ | ⟨h, hm⟩
  · rw [h, hm, evenBase_toNat]
  · rw [h, hm, vectorBase_toNat]

/-- The bits that the alignment mask clears as arithmetic. -/
theorem State.ialignRest_eq_zero_iff (s : State) (v : Word) :
    v &&& ~~~s.cfg.ialignMask = 0 ↔ v.toNat % s.ialign = 0 := by
  have hsplit : v &&& ~~~s.cfg.ialignMask = 0 ↔ v &&& s.cfg.ialignMask = v := by
    constructor <;> intro h <;> refine BitVec.eq_of_getLsbD_eq fun i hi => ?_
    · have := congrArg (·.getLsbD i) h
      simp only [BitVec.getLsbD_and, BitVec.getLsbD_not, hi, decide_true, Bool.true_and] at this ⊢
      cases hv : v.getLsbD i <;> simp_all
    · have := congrArg (·.getLsbD i) h
      simp only [BitVec.getLsbD_and, BitVec.getLsbD_not, hi, decide_true, Bool.true_and] at this ⊢
      cases hv : v.getLsbD i <;> simp_all
  rw [hsplit, ← BitVec.toNat_inj, s.ialignMask_toNat]
  have := Nat.div_add_mod v.toNat s.ialign
  rw [Nat.mul_comm] at this
  omega

theorem State.epcOf_toNat (s : State) (v : Word) :
    (s.epcOf v).toNat = v.toNat % 2 ^ s.width / s.ialign * s.ialign := by
  unfold State.epcOf State.width
  rw [Xlen.norm_toNat, s.ialignMask_toNat]
  rcases Xlen.bits_cases s.cfg.xlen with hw | hw <;> rcases s.ialign_cases with ⟨h, _⟩ | ⟨h, _⟩ <;> rw [hw, h] <;> omega

/-- A number taken modulo `2^XLEN` keeps its alignment. -/
theorem State.mod_width_mod_ialign (s : State) (n : Nat) : n % 2 ^ s.width % s.ialign = n % s.ialign := by
  refine Nat.mod_mod_of_dvd _ (s.ialign_dvd_four.trans ?_)
  unfold State.width
  rcases Xlen.bits_cases s.cfg.xlen with hw | hw <;> rw [hw] <;> decide

/-! ## Where pc goes -/

section
variable {s : State}

/-- Whether `pc` is legal depends on it and the configuration. -/
theorem pcLegal_congr {t : State} (hc : t.cfg = s.cfg) (hp : t.pc = s.pc) (h : s.PcLegal) : t.PcLegal := by
  unfold State.PcLegal State.width State.ialign at *
  rw [hc, hp]
  exact h

theorem pcLegal_of_pc {t : State} (hc : t.cfg = s.cfg) (hlt : t.pc.toNat < 2 ^ s.width) (hal : t.pc.toNat % s.ialign = 0) :
    t.PcLegal := by
  unfold State.PcLegal State.width State.ialign at *
  rw [hc]
  exact ⟨hlt, hal⟩

theorem State.fromPc_natCast (s : State) (n : Nat) : s.fromPc n = (s.upc + n) % 2 ^ s.width := by
  unfold State.fromPc wrap
  norm_cast

/-- Going on past an instruction keeps `pc` aligned. -/
theorem pcLegal_pcPlus {t : State} (h : s.PcLegal) (n : Nat) (hn : n % s.ialign = 0) (hc : t.cfg = s.cfg)
    (hpc : t.pc = s.pcPlus (BitVec.ofNat 64 n)) : t.PcLegal := by
  have hto : t.pc.toNat = (s.upc + n) % 2 ^ s.width := by rw [hpc, s.pcPlus_toNat, s.fromPc_natCast]
  refine pcLegal_of_pc hc (by rw [hto]; exact Nat.mod_lt _ (Nat.two_pow_pos _)) ?_
  rw [hto, s.mod_width_mod_ialign, Nat.add_mod, hn, State.upc, s.mod_width_mod_ialign, h.2, Nat.zero_add, Nat.zero_mod]

theorem pcLegal_takeTrap (s : State) (isInt : Bool) {code : Nat} (hcode : code < 16) (epc tval : Word) :
    (s.takeTrap isInt code epc tval).PcLegal := by
  have hv (tvec : Word) : (trapVector s.cfg.xlen tvec isInt code).toNat < 2 ^ s.width ∧
      (trapVector s.cfg.xlen tvec isInt code).toNat % s.ialign = 0 := by
    rw [s.trapVector_toNat tvec isInt hcode]
    unfold State.vectorOf
    refine ⟨Nat.mod_lt _ (Nat.two_pow_pos _), ?_⟩
    rw [s.mod_width_mod_ialign]
    refine Nat.mod_eq_zero_of_dvd (s.ialign_dvd_four.trans (Nat.dvd_add (Nat.dvd_mul_left _ _) ?_))
    split
    · exact Nat.dvd_mul_right _ _
    · exact Nat.dvd_zero _
  rcases s.takeTrap_cases isInt code epc tval with ⟨_, h⟩ | h
  · rw [h]; exact pcLegal_of_pc rfl (hv _).1 (hv _).2
  · rw [h]; exact pcLegal_of_pc rfl (hv _).1 (hv _).2

theorem pcLegal_epcOf {t : State} (v : Word) (hc : t.cfg = s.cfg) (hpc : t.pc = s.epcOf v) : t.PcLegal := by
  have hto := s.epcOf_toNat v
  refine pcLegal_of_pc hc ?_ ?_
  · rw [hpc, hto]
    exact (Nat.div_mul_le_self _ _).trans_lt (Nat.mod_lt _ (Nat.two_pow_pos _))
  · rw [hpc, hto, Nat.mul_mod_left]

end

end Sys2Proof.Machine

namespace Sys2Proof.Proofs

open Sys2Proof.Machine

/-- The length of an instruction that the hart decodes is a multiple of the alignment. -/
theorem encode_len_aligned {s : State} {b : Bits} {i : Instr} (h : decode s.cfg b = .ok i) :
    ∃ n, (encode i).len = BitVec.ofNat 64 n ∧ n % s.ialign = 0 := by
  have hext := (encodeDecode s.cfg b i h).2.2
  rcases encode_len_cases i hext with h4 | ⟨h2, hc⟩
  · exact ⟨4, h4, Nat.mod_eq_zero_of_dvd s.ialign_dvd_four⟩
  · exact ⟨2, h2, by simp [State.ialign, hc]⟩

theorem pcLegal_ran {s t : State} {n : Nat} (hn : n % s.ialign = 0) (hs : s.PcLegal)
    (h : s.Ran (BitVec.ofNat 64 n) t) : t.PcLegal := by
  cases h with
  | raised e => exact pcLegal_takeTrap _ _ e.exc.code_lt _ _
  | wentOn hu _ ht =>
    have hc := hu.cfg
    exact pcLegal_pcPlus hs n hn (by rw [ht]; exact hc) (by rw [ht])
  | jumped htarget ha ht =>
    refine pcLegal_of_pc (s := s) (by rw [ht]) ?_ ?_ <;> rw [ht]
    · rw [← htarget, Xlen.norm_toNat]; exact Nat.mod_lt _ (Nat.two_pow_pos _)
    · exact (s.ialignRest_eq_zero_iff _).mp ha
  | wroteCsr v _ _ _ ht =>
    have hc := s.csrWritten_csrWrite ‹Csr› v
    exact pcLegal_pcPlus hs n hn (by rw [ht, hc]) (by rw [ht])
  | returnedM => exact pcLegal_epcOf (s := s) s.mepc rfl rfl
  | returnedS => exact pcLegal_epcOf (s := s) s.sepc rfl rfl
  | waits => exact hs

theorem pcLegal_stepped {s t : State} (hs : s.PcLegal) (h : s.Stepped t) : t.PcLegal := by
  cases h with
  | waited =>
    unfold State.waitOn
    split
    · exact pcLegal_pcPlus hs 4 (Nat.mod_eq_zero_of_dvd s.ialign_dvd_four) rfl rfl
    · exact hs
  | interrupted i => exact pcLegal_takeTrap _ _ (by cases i <;> decide) _ _
  | fetchRaised e | undecodable => exact pcLegal_takeTrap _ _ (Exc.code_lt _) _ _
  | @executed u _ _ i hf hd ht =>
    have hu := State.fetch_eq hf
    have hc : u.cfg = s.cfg := by rw [hu]
    obtain ⟨n, hlen, hn⟩ := encode_len_aligned (s := u) (hc.symm ▸ hd)
    exact pcLegal_ran hn (pcLegal_congr hc (by rw [hu]) hs) (hlen ▸ ht)

/-- Settles O54: what each outcome puts in `pc` is cut to XLEN bits and aligned. -/
theorem stepKeepsPcAligned : Obligations.StepKeepsPcAligned := by
  intro s t hs h
  obtain ⟨u, hu, rfl⟩ := stepped_of_step h
  have hl := pcLegal_stepped hs hu
  rw [u.turnTaken_tick]
  exact hl

end Sys2Proof.Proofs
end

section
/-!
PROOFS. What every step keeps of the CSR fields, the reservation, the counters and the privileged registers
(10_state.md rules R42 to R61; 43_a.md rules R362, R365; 60_exceptions.md rule R760).
-/

namespace Sys2Proof.Machine

/-! ## Writes of fields with legal values -/

/-- MODE 2 and 3 are never taken. -/
theorem State.getLsbD_putTvec_one {s : State} {old : Word} (h : old.getLsbD 1 = false) (v : Word) :
    (s.putTvec old v).getLsbD 1 = false := by
  unfold State.putTvec
  simp only [Xlen.getLsbD_norm, BitVec.getLsbD_or, BitVec.getLsbD_and]
  have hv : v.extractLsb' 0 2 ≠ 0b10#2 → v.extractLsb' 0 2 ≠ 0b11#2 → v.getLsbD 1 = false := by
    intro h2 h3
    cases hb : v.getLsbD 1
    · rfl
    · cases h0 : v.getLsbD 0
      · refine absurd (BitVec.eq_of_getLsbD_eq fun i hi => ?_) h2
        interval_cases i <;> rw [BitVec.getLsbD_extractLsb']
        · rw [h0]; rfl
        · rw [hb]; rfl
      · refine absurd (BitVec.eq_of_getLsbD_eq fun i hi => ?_) h3
        interval_cases i <;> rw [BitVec.getLsbD_extractLsb']
        · rw [h0]; rfl
        · rw [hb]; rfl
  have hkept (c : Bool) (hc : c = false → v.getLsbD 1 = false) : (if c then old else v).getLsbD 1 = false := by
    cases c
    · exact hc rfl
    · exact h
  rw [hkept _ fun hk => ?_]
  · simp
  · simp only [Bool.or_eq_false_iff, beq_eq_false_iff_ne] at hk
    exact hv hk.1.1 hk.1.2

/-- On RV64 the mode of `satp` is bare or Sv39. -/
theorem satpMode_putSatp {s : State} (h : s.cfg.xlen = .rv64)
    (hs : satpMode .rv64 s.satp = 0 ∨ satpMode .rv64 s.satp = 8) (v : Word) :
    satpMode .rv64 (s.putSatp v) = 0 ∨ satpMode .rv64 (s.putSatp v) = 8 := by
  unfold State.putSatp
  rw [h]
  simp only
  split
  · next hm =>
    have he (a : BitVec 4) (b : BitVec 16) (c : BitVec 44) : (a ++ b ++ c).extractLsb' 60 4 = a :=
      eq_of_bits fun i hi => by
        interval_cases i <;> (simp only [BitVec.getLsbD_extractLsb', BitVec.getLsbD_append]; simp)
    simp only [satpMode, he]
    rcases hm with hm | hm <;> rw [hm]
    · exact .inl rfl
    · exact .inr rfl
  · exact hs

/-- The reserved bits of a PMP byte, and the high bit of A, stay clear. -/
theorem pmpByte_and_reserved {old : BitVec 8} (h : old &&& 0x70#8 = 0) (new : BitVec 8) :
    pmpByte old new &&& 0x70#8 = 0 := by
  unfold pmpByte
  split
  · exact h
  · have hA : (if new.getLsbD 4 then old.extractLsb' 3 2 else new.extractLsb' 3 2).getLsbD 1 = false := by
      split
      · simpa using congrArg (·.getLsbD 4) h
      · simp_all
    generalize (if new.getLsbD 4 then old.extractLsb' 3 2 else new.extractLsb' 3 2) = A at hA ⊢
    refine eq_of_bits fun i hi => ?_
    interval_cases i <;> (simp only [BitVec.getLsbD_and, BitVec.getLsbD_append]; simp)
    simpa using hA

/-- The PMP bytes after a write of one of them. -/
theorem State.pmpCfgAt_putPmpByte (s : State) (i j : Nat) (b : BitVec 8) :
    (s.putPmpByte i b).pmpCfgAt j =
      if i = j ∧ i < s.cfg.pmpEntries ∧ i < 16 then pmpByte (s.pmpCfgAt i) b else s.pmpCfgAt j := by
  unfold State.putPmpByte
  split
  · next hi =>
    unfold State.pmpCfgAt
    simp only [Vector.getElem?_setIfInBounds]
    by_cases hij : i = j
    · subst hij
      by_cases h16 : i < 16 <;> simp [hi, h16]
    · simp [hij]
  · next hi => simp [hi]

/-- A property of PMP bytes that a write of each keeps, a write of several keeps. -/
theorem State.pmpCfgAt_putPmpBytes_induction {P : BitVec 8 → Prop} {j : Nat}
    (hP : ∀ old new, P old → P (pmpByte old new)) (s : State) (i : Nat) (v : Word) (count : Nat)
    (h : P (s.pmpCfgAt j)) : P ((s.putPmpBytes i v count).pmpCfgAt j) := by
  induction count generalizing s i v with
  | zero => exact h
  | succ count ih =>
    refine ih _ _ _ ?_
    rw [s.pmpCfgAt_putPmpByte]
    split
    · next hij => obtain ⟨rfl, _⟩ := hij; exact hP _ _ h
    · exact h

theorem State.pmpCfgAt_putPmpcfg_induction {P : BitVec 8 → Prop} {j : Nat}
    (hP : ∀ old new, P old → P (pmpByte old new)) (s : State) (k : Nat) (v : Word) (h : P (s.pmpCfgAt j)) :
    P ((s.putPmpcfg k v).pmpCfgAt j) := by
  unfold State.putPmpcfg
  split <;> exact State.pmpCfgAt_putPmpBytes_induction hP _ _ _ _ h

theorem and_mask_and_not (v mask : Word) : (v &&& mask) &&& ~~~mask = 0 := by
  rw [BitVec.and_assoc, BitVec.and_not_self]
  exact BitVec.and_zero

/-- Whether the CSR fields are legal depends on these fields alone. -/
theorem csrLegal_congr {s t : State}
    (h : (t.cfg, t.mtvec, t.stvec, t.satp, t.pmpcfg, t.medeleg, t.mideleg) =
      (s.cfg, s.mtvec, s.stvec, s.satp, s.pmpcfg, s.medeleg, s.mideleg)) (hs : s.CsrLegal) : t.CsrLegal := by
  simp only [Prod.mk.injEq] at h
  obtain ⟨hc, hm, hst, hsa, hp, hme, hmi⟩ := h
  unfold State.CsrLegal State.pmpCfgAt at *
  rw [hc, hm, hst, hsa, hp, hme, hmi]
  exact hs

theorem csrLegal_csrWrite {s : State} (h : s.CsrLegal) (r : Csr) (v : Word) : (s.csrWrite r v).CsrLegal := by
  obtain ⟨hmtvec, hstvec, hsatp, hpmp, hmedeleg, hmideleg⟩ := h
  have hl : s.CsrLegal := ⟨hmtvec, hstvec, hsatp, hpmp, hmedeleg, hmideleg⟩
  cases r
  case mtvec => exact ⟨State.getLsbD_putTvec_one hmtvec v, hstvec, hsatp, hpmp, hmedeleg, hmideleg⟩
  case stvec => exact ⟨hmtvec, State.getLsbD_putTvec_one hstvec v, hsatp, hpmp, hmedeleg, hmideleg⟩
  case satp => exact ⟨hmtvec, hstvec, fun hx => satpMode_putSatp (s := s) hx (hsatp hx) v, hpmp, hmedeleg, hmideleg⟩
  case medeleg => exact ⟨hmtvec, hstvec, hsatp, hpmp, and_mask_and_not _ _, hmideleg⟩
  case mideleg => exact ⟨hmtvec, hstvec, hsatp, hpmp, hmedeleg, and_mask_and_not _ _⟩
  case pmpcfg k =>
    obtain ⟨cs, he⟩ := s.putPmpcfg_eq k.val v
    have hcs (i : Nat) (hi : i < 16) : (s.putPmpcfg k.val v).pmpCfgAt i &&& 0x70#8 = 0 :=
      State.pmpCfgAt_putPmpcfg_induction (P := fun b => b &&& 0x70#8 = 0) (fun _ new h => pmpByte_and_reserved h new) s _ v
        (hpmp i hi)
    refine (congrArg State.CsrLegal he).mpr ⟨hmtvec, hstvec, hsatp, ?_, hmedeleg, hmideleg⟩
    rwa [he] at hcs
  case pmpaddr i =>
    obtain ⟨as, he⟩ := s.putPmpaddr_eq i v
    exact (congrArg State.CsrLegal he).mpr hl
  case sip =>
    obtain ⟨a, b, c, he⟩ := s.putMip_eq s.sipWritable v
    exact (congrArg State.CsrLegal he).mpr hl
  case mip =>
    obtain ⟨a, b, c, he⟩ := s.putMip_eq midelegMask v
    exact (congrArg State.CsrLegal he).mpr hl
  all_goals exact hl

theorem csrLegal_takeTrap {s : State} (h : s.CsrLegal) (isInt : Bool) (code : Nat) (epc tval : Word) :
    (s.takeTrap isInt code epc tval).CsrLegal := by
  rcases s.takeTrap_cases isInt code epc tval with ⟨_, ht⟩ | ht <;> exact csrLegal_congr (by rw [ht]) h

/-! ## Reservations -/

theorem keepReservation_cases (r : Option Reservation) (as : List Nat) :
    keepReservation r as = r ∨ keepReservation r as = none := by
  unfold keepReservation
  cases r with
  | none => exact .inl rfl
  | some v =>
    simp only
    split
    · exact .inr rfl
    · exact .inl rfl

/-- Whether the reservation is legal depends on it alone. -/
theorem reservationLegal_congr {s t : State} (h : t.reservation = s.reservation) (hs : s.ReservationLegal) :
    t.ReservationLegal := by
  unfold State.ReservationLegal at *
  rwa [h]

theorem reservationLegal_of_none {t : State} (h : t.reservation = none) : t.ReservationLegal := by
  intro v hv
  rw [h] at hv
  cases hv

theorem reservationLegal_keep {s t : State} {as : List Nat} (h : t.reservation = keepReservation s.reservation as)
    (hs : s.ReservationLegal) : t.ReservationLegal := by
  rcases keepReservation_cases s.reservation as with hk | hk
  · exact reservationLegal_congr (h.trans hk) hs
  · exact reservationLegal_of_none (h.trans hk)

theorem reservationLegal_otherWrites {s : State} (cs : List Host.Cell) (hs : s.ReservationLegal) :
    (s.otherWrites cs).ReservationLegal := by
  induction cs generalizing s with
  | nil => exact hs
  | cons c cs ih => exact ih (reservationLegal_keep (s := s) rfl hs)

theorem reservationLegal_tick {s : State} (hs : s.ReservationLegal) : s.tick.ReservationLegal := by
  unfold State.tick
  split
  · exact hs
  · next i is _ =>
    have hw := reservationLegal_otherWrites i.writes hs
    by_cases hm : i.msip.isSome = true
    · exact reservationLegal_keep (s := s.otherWrites i.writes) (by simp only [State.applyInput, hm]; rfl) hw
    · exact reservationLegal_congr (s := s.otherWrites i.writes)
        (by simp only [State.applyInput, hm]; rfl) hw

theorem State.reservation_writePlace (s : State) (p : Place) (n : Nat) (v : Word) :
    (s.writePlace p n v).reservation = keepReservation s.reservation (p.addrs n) := by
  unfold State.writePlace
  split <;> rfl

theorem lookupKeeps_reservationLegal : LookupKeeps State.ReservationLegal where
  cache _ _ _ _ h := h
  update s t pa pte h he := by
    rw [(State.pteWrite_eq_some he).2]
    exact reservationLegal_keep (s := s) rfl h

/-! ### A translation keeps the place in a doubleword -/

theorem leafAddr_mod_eight (x : Xlen) (pte : Word) (i : Nat) (va : Word) : leafAddr x pte i va % 8 = va.toNat % 8 := by
  obtain ⟨q, hq⟩ : ∃ q, pageBytes x i = 8 * q :=
    ⟨2 ^ (9 + vpnBits x * i), by unfold pageBytes; rw [show 12 + vpnBits x * i = 3 + (9 + vpnBits x * i) by omega, pow_add]; rfl⟩
  unfold leafAddr
  rw [hq, Nat.mul_left_comm, Nat.mul_add_mod, Nat.mod_mul_right_mod]

theorem State.translate_mod_eight {s t : State} {p : Priv} {a : Access} {va : Word} {pa : Nat}
    (h : s.translate p a va = .ok (t, pa)) : pa % 8 = va.toNat % 8 := by
  unfold State.translate at h
  split at h
  · cases h; rfl
  split at h
  · cases h
  split at h
  · split at h
    · cases h; exact leafAddr_mod_eight _ _ _ _
    · cases h
  split at h
  · cases h
  next leaf _ =>
    obtain ⟨pte, i, at_⟩ := leaf
    simp only [State.useLeaf] at h
    split at h
    · cases h
    split at h
    · cases h; exact leafAddr_mod_eight _ _ _ _
    split at h
    · cases h
    split at h <;> cases h
    exact leafAddr_mod_eight _ _ _ _

/-- An access found whole was aligned, and translated and checked once. -/
theorem State.locate_whole {s u : State} {t : Access} {a : Word} {n pa : Nat} (h : s.locate t a n = .ok (u, .whole pa)) :
    a.toNat % n = 0 ∧ s.translate s.priv t a = .ok (u, pa) ∧ u.physOk pa n t s.priv = true := by
  unfold State.locate at h
  split at h
  · next ha =>
    split at h <;> cases h
    next hu =>
      unfold State.locateOne at hu
      split at hu
      · cases hu
      · next ht =>
        split at hu <;> cases hu
        exact ⟨ha, ht, ‹_›⟩
  split at h
  · cases h
  · split at h <;> cases h

theorem State.Reserves.legal {s u : State} {r : Option Reservation} (h : s.Reserves u r) (hu : u.ReservationLegal) :
    ∀ v, r = some v → (v.size = 4 ∨ v.size = 8) ∧ v.addr % v.size = 0 := by
  rintro v rfl
  rcases h with h | h | ⟨a, n, pa, hn, hl, hv⟩
  · exact hu v h.symm
  · cases h
  · cases hv
    obtain ⟨ha, ht, _⟩ := State.locate_whole hl
    have h8 := State.translate_mod_eight ht
    refine ⟨hn, ?_⟩
    rcases hn with rfl | rfl <;> simp only <;> omega

end Sys2Proof.Machine

namespace Sys2Proof.Proofs

open Sys2Proof.Machine

/-! ## The CSR fields -/

theorem csrLegal_ran {s t : State} {len : Word} (hs : s.CsrLegal) (h : s.Ran len t) : t.CsrLegal := by
  cases h with
  | raised e => exact csrLegal_takeTrap hs _ _ _ _
  | wentOn hu _ ht => exact csrLegal_congr (by rw [ht, hu.written]) hs
  | jumped _ _ ht => exact csrLegal_congr (by rw [ht]) hs
  | @wroteCsr _ _ r v _ _ _ ht => exact csrLegal_congr (by rw [ht]) (csrLegal_csrWrite hs r v)
  | returnedM | returnedS | waits => exact hs

theorem csrLegal_stepped {s t : State} (hs : s.CsrLegal) (h : s.Stepped t) : t.CsrLegal := by
  cases h with
  | waited =>
    unfold State.waitOn
    split <;> exact hs
  | interrupted | fetchRaised => exact csrLegal_takeTrap hs _ _ _ _
  | undecodable _ hf => exact csrLegal_takeTrap (csrLegal_congr (by rw [State.fetch_eq hf]) hs) _ _ _ _
  | executed hf _ ht => exact csrLegal_ran (csrLegal_congr (by rw [State.fetch_eq hf]) hs) ht

/-- Settles O55: only CSR writes change these fields, and each keeps its own. -/
theorem stepKeepsCsrFields : Obligations.StepKeepsCsrFields := by
  intro s t hs h
  obtain ⟨u, hu, rfl⟩ := stepped_of_step h
  exact csrLegal_congr (by rw [u.turnTaken_tick]) (csrLegal_stepped hs hu)

/-! ## The reservation -/

theorem reservation_takeTrap (s : State) (isInt : Bool) (code : Nat) (epc tval : Word) :
    (s.takeTrap isInt code epc tval).reservation = s.reservation := by
  rcases s.takeTrap_cases isInt code epc tval with ⟨_, h⟩ | h <;> rw [h]

theorem reservationLegal_takeTrap {s : State} (hs : s.ReservationLegal) (isInt : Bool) (code : Nat) (epc tval : Word) :
    (s.takeTrap isInt code epc tval).ReservationLegal := reservationLegal_congr (reservation_takeTrap _ _ _ _ _) hs

theorem reservationLegal_ran {s t : State} {len : Word} (hs : s.ReservationLegal) (h : s.Ran len t) :
    t.ReservationLegal := by
  cases h with
  | raised e => exact reservationLegal_takeTrap hs _ _ _ _
  | wentOn hu hr _ =>
    exact hr.legal (lookupKeeps_reservationLegal.accessed
      (fun _ _ _ _ _ _ _ _ h => reservationLegal_keep (State.reservation_writePlace _ _ _ _) h) hs hu)
  | jumped _ _ ht => exact reservationLegal_congr (by rw [ht]) hs
  | @wroteCsr _ _ r v _ _ _ ht => exact reservationLegal_congr (by rw [ht, s.csrWritten_csrWrite r v]) hs
  | returnedM | returnedS | waits => exact hs

theorem reservationLegal_stepped {s t : State} (hs : s.ReservationLegal) (h : s.Stepped t) : t.ReservationLegal := by
  cases h with
  | waited =>
    unfold State.waitOn
    split <;> exact hs
  | interrupted | fetchRaised => exact reservationLegal_takeTrap hs _ _ _ _
  | undecodable _ hf => exact reservationLegal_takeTrap (lookupKeeps_reservationLegal.fetch hs hf) _ _ _ _
  | executed hf _ ht => exact reservationLegal_ran (lookupKeeps_reservationLegal.fetch hs hf) ht

/-- Settles O56: writes keep the reservation or drop it, and `lr` reserves the aligned bytes it found. -/
theorem stepKeepsReservation : Obligations.StepKeepsReservation := by
  intro s t hs h
  obtain ⟨u, hu, rfl⟩ := stepped_of_step h
  exact reservationLegal_tick (reservationLegal_stepped hs hu)

/-! ## The counters -/

/-- `t` follows `s`, the environment's turn apart: the parameters, the cycles and the inputs are the same, and at most
one instruction more is counted. -/
def Counts (s t : State) : Prop :=
  (t.cfg, t.cycle, t.inputs) = (s.cfg, s.cycle, s.inputs) ∧ (t.instret = s.instret ∨ t.instret = s.instret + 1)

theorem counts_takeTrap (s : State) (isInt : Bool) (code : Nat) (epc tval : Word) :
    Counts s (s.takeTrap isInt code epc tval) := by
  rcases s.takeTrap_cases isInt code epc tval with ⟨_, h⟩ | h <;> rw [h] <;> exact ⟨rfl, .inl rfl⟩

theorem counts_ran {s t : State} {len : Word} (h : s.Ran len t) : Counts s t := by
  cases h with
  | raised e => exact counts_takeTrap _ _ _ _ _
  | wentOn hu _ ht => exact ⟨by rw [ht, hu.written], .inr (by rw [ht])⟩
  | jumped _ _ ht => exact ⟨by rw [ht], .inr (by rw [ht])⟩
  | @wroteCsr _ _ r v _ _ _ ht => exact ⟨by rw [ht, s.csrWritten_csrWrite r v], .inr (by rw [ht])⟩
  | returnedM | returnedS => exact ⟨rfl, .inr rfl⟩
  | waits => exact ⟨rfl, .inl rfl⟩

theorem Counts.of_fetched {s u t : State} {b : Bits} (hf : s.fetch = .ok (u, b)) (h : Counts u t) : Counts s t := by
  have hu := State.fetch_eq hf
  rw [hu] at h
  exact h

theorem counts_stepped {s t : State} (h : s.Stepped t) : Counts s t := by
  cases h with
  | waited =>
    unfold State.waitOn
    split
    · exact ⟨rfl, .inr rfl⟩
    · exact ⟨rfl, .inl rfl⟩
  | interrupted | fetchRaised => exact counts_takeTrap _ _ _ _ _
  | undecodable _ hf => exact (counts_takeTrap _ _ _ _ _).of_fetched hf
  | executed hf _ ht => exact (counts_ran ht).of_fetched hf

/-- Settles O57: nothing but the environment's turn counts cycles, and an outcome counts at most one instruction. -/
theorem stepCounts : Obligations.StepCounts := by
  intro s t h
  obtain ⟨u, hu, rfl⟩ := stepped_of_step h
  obtain ⟨hsame, hinstret⟩ := counts_stepped hu
  simp only [Prod.mk.injEq] at hsame
  obtain ⟨hcfg, hcycle, hinputs⟩ := hsame
  have ht := u.turnTaken_tick
  refine ⟨by rw [ht]; exact hcfg, fun hi => ?_, by rw [ht]; exact hinstret⟩
  have hnone : u.inputs = [] := hinputs.trans hi
  have htick : u.tick = { u with cycle := u.cycle + 1, mtime := u.mtime + u.cfg.mtimeTick } := by
    unfold State.tick
    rw [hnone]
  rw [htick]
  exact ⟨congrArg (· + 1) hcycle, hnone⟩

end Sys2Proof.Proofs
end

section
/-!
PROOFS. What protection keeps: user mode and the privileged registers, locked PMP entries, and memory that the PMP
forbids to write (10_state.md rules R28, R42; 20_memory.md rules R120 to R128).
-/

namespace Sys2Proof.Machine

/-! ## CSRs that user mode may write -/

/-- A CSR whose number user mode may use is none of the privileged ones. -/
theorem privileged_csrWrite {s : State} {a : BitVec 12} {r : Csr} (v : Word) (ha : csrOf s.cfg a = some r)
    (hp : csrPrivOk .u a = true) : (s.csrWrite r v).privileged = s.privileged := by
  have hbits : a.extractLsb' 8 2 = 0 := by
    unfold csrPrivOk at hp
    simpa [BitVec.ule, Priv.code, BitVec.toNat_eq] using hp
  have hne {n : BitVec 12} (hn : n.extractLsb' 8 2 ≠ 0) : a ≠ n := fun h => hn (h ▸ hbits)
  have hpmpcfg : a.extractLsb' 2 10 ≠ 0x0e8#10 := fun h => by
    have := congrArg (·.extractLsb' 6 2) h
    rw [show (a.extractLsb' 2 10).extractLsb' 6 2 = a.extractLsb' 8 2 from
      eq_of_bits fun i hi => by interval_cases i <;> simp, hbits] at this
    exact absurd this (by decide)
  have hpmpaddr : a.extractLsb' 4 8 ≠ 0x3b#8 := fun h => by
    have := congrArg (·.extractLsb' 4 2) h
    rw [show (a.extractLsb' 4 8).extractLsb' 4 2 = a.extractLsb' 8 2 from
      eq_of_bits fun i hi => by interval_cases i <;> simp, hbits] at this
    exact absurd this (by decide)
  have hnumber : a ≠ 0x100#12 ∧ a ≠ 0x104#12 ∧ a ≠ 0x105#12 ∧ a ≠ 0x140#12 ∧ a ≠ 0x141#12 ∧ a ≠ 0x142#12 ∧
      a ≠ 0x143#12 ∧ a ≠ 0x144#12 ∧ a ≠ 0x180#12 ∧ a ≠ 0x300#12 ∧ a ≠ 0x302#12 ∧ a ≠ 0x303#12 ∧ a ≠ 0x304#12 ∧
      a ≠ 0x305#12 ∧ a ≠ 0x340#12 ∧ a ≠ 0x341#12 ∧ a ≠ 0x342#12 ∧ a ≠ 0x343#12 ∧ a ≠ 0x344#12 := by
    refine ⟨?_, ?_, ?_, ?_, ?_, ?_, ?_, ?_, ?_, ?_, ?_, ?_, ?_, ?_, ?_, ?_, ?_, ?_, ?_⟩ <;> exact hne (by decide)
  simp only [csrOf, hnumber, hpmpcfg, hpmpaddr, if_false, csrIf, rv32Csr] at ha
  repeat' split at ha
  all_goals cases ha
  all_goals rfl

/-! ## Locked PMP entries -/

/-- The configuration and the address register of entry `i`, and the address register below it where the entry exists,
are the same. -/
def State.EntryKept (s t : State) (i : Fin 16) : Prop :=
  t.pmpCfgAt i.val = s.pmpCfgAt i.val ∧ t.pmpaddr.get i = s.pmpaddr.get i ∧
  (i.val < s.cfg.pmpEntries → ∀ k : Fin 16, k.val + 1 = i.val → t.pmpaddr.get k = s.pmpaddr.get k)

theorem entryKept_of_eq {s t : State} (h : (t.pmpcfg, t.pmpaddr) = (s.pmpcfg, s.pmpaddr)) (i : Fin 16) :
    s.EntryKept t i := by
  simp only [Prod.mk.injEq] at h
  obtain ⟨hc, ha⟩ := h
  unfold State.EntryKept State.pmpCfgAt
  rw [hc, ha]
  exact ⟨rfl, rfl, fun _ _ _ => rfl⟩

theorem getElem_pmpaddr_putPmpaddr {s : State} {i : Fin 16} (j : Fin 16) (v : Word) (h : s.pmpaddrLocked j.val = true) :
    (s.putPmpaddr i v).pmpaddr.get j = s.pmpaddr.get j := by
  unfold State.putPmpaddr
  split
  · rfl
  · next hi =>
    have hij : i.val ≠ j.val := fun hij => hi (hij ▸ h)
    exact Vector.getElem_set_ne i.isLt j.isLt hij

theorem entryKept_csrWrite {s : State} {i : Fin 16} (h : (s.pmpCfgAt i.val).getLsbD 7 = true) (r : Csr) (v : Word) :
    s.EntryKept (s.csrWrite r v) i := by
  cases r
  case pmpcfg k =>
    obtain ⟨cs, he⟩ := s.putPmpcfg_eq k.val v
    have hb : ∀ old new : BitVec 8, old = s.pmpCfgAt i.val → pmpByte old new = s.pmpCfgAt i.val := by
      rintro old new rfl
      unfold pmpByte
      rw [if_pos h]
    have haddr : (s.putPmpcfg k.val v).pmpaddr = s.pmpaddr := by rw [he]
    exact ⟨State.pmpCfgAt_putPmpcfg_induction (P := (· = s.pmpCfgAt i.val)) hb s k.val v rfl,
      congrArg (·.get i) haddr, fun _ j _ => congrArg (·.get j) haddr⟩
  case pmpaddr j =>
    obtain ⟨as, he⟩ := s.putPmpaddr_eq j v
    have hcfg : (s.putPmpaddr j v).pmpCfgAt i.val = s.pmpCfgAt i.val := by rw [he]; rfl
    refine ⟨hcfg, getElem_pmpaddr_putPmpaddr i v ?_, fun hi k hk =>
      getElem_pmpaddr_putPmpaddr k v ?_⟩
    · simp only [State.pmpaddrLocked, h, Bool.true_or]
    · simp only [State.pmpaddrLocked, hk, hi, h, decide_true, Bool.and_self, Bool.or_true]
  case sip =>
    obtain ⟨a, b, c, he⟩ := s.putMip_eq s.sipWritable v
    exact entryKept_of_eq (congrArg (fun t : State => (t.pmpcfg, t.pmpaddr)) he) i
  case mip =>
    obtain ⟨a, b, c, he⟩ := s.putMip_eq midelegMask v
    exact entryKept_of_eq (congrArg (fun t : State => (t.pmpcfg, t.pmpaddr)) he) i
  all_goals exact entryKept_of_eq rfl i

theorem entryKept_takeTrap (s : State) (isInt : Bool) (code : Nat) (epc tval : Word) (i : Fin 16) :
    s.EntryKept (s.takeTrap isInt code epc tval) i := by
  rcases s.takeTrap_cases isInt code epc tval with ⟨_, h⟩ | h <;> exact entryKept_of_eq (by rw [h]) i

theorem entryKept_ran {s t : State} {len : Word} {i : Fin 16} (hi : (s.pmpCfgAt i.val).getLsbD 7 = true)
    (h : s.Ran len t) : s.EntryKept t i := by
  cases h with
  | raised e => exact entryKept_takeTrap _ _ _ _ _ i
  | wentOn hu _ ht => exact entryKept_of_eq (by rw [ht, hu.written]) i
  | jumped _ _ ht => exact entryKept_of_eq (by rw [ht]) i
  | @wroteCsr _ _ r v _ _ _ ht =>
    have hk := entryKept_csrWrite hi r v
    rw [ht]
    exact hk
  | returnedM | returnedS | waits => exact entryKept_of_eq rfl i

theorem State.EntryKept.of_fetched {s u t : State} {b : Bits} {i : Fin 16} (hf : s.fetch = .ok (u, b))
    (h : u.EntryKept t i) : s.EntryKept t i := by
  have hu := State.fetch_eq hf
  rw [hu] at h
  exact h

theorem entryKept_stepped {s t : State} {i : Fin 16} (hi : (s.pmpCfgAt i.val).getLsbD 7 = true) (h : s.Stepped t) :
    s.EntryKept t i := by
  cases h with
  | waited =>
    unfold State.waitOn
    split <;> exact entryKept_of_eq rfl i
  | interrupted | fetchRaised => exact entryKept_takeTrap _ _ _ _ _ i
  | undecodable _ hf => exact (entryKept_takeTrap _ _ _ _ _ i).of_fetched hf
  | executed hf _ ht =>
    refine (entryKept_ran ?_ ht).of_fetched hf
    rw [State.fetch_eq hf]
    exact hi

/-! ## Memory that the PMP forbids to write -/

/-- The PMP check depends on its registers and the configuration alone. -/
theorem State.pmpOk_congr {s t : State} (h : (t.cfg, t.pmpcfg, t.pmpaddr) = (s.cfg, s.pmpcfg, s.pmpaddr)) (pa n : Nat)
    (a : Access) (p : Priv) : t.pmpOk pa n a p = s.pmpOk pa n a p := by
  simp only [Prod.mk.injEq] at h
  obtain ⟨hc, hp, ha⟩ := h
  have haddr (i : Nat) : t.pmpAddrAt i = s.pmpAddrAt i := by unfold State.pmpAddrAt; rw [hc, ha]
  have hcfg (i : Nat) : t.pmpCfgAt i = s.pmpCfgAt i := by unfold State.pmpCfgAt; rw [hp]
  have hin (i : Nat) : t.pmpIn i = s.pmpIn i := by
    funext b
    unfold State.pmpIn State.pmpLo
    rw [haddr, haddr]
  have hscan (is : List Nat) : t.pmpScan pa n a p is = s.pmpScan pa n a p is := by
    induction is with
    | nil => rw [State.pmpScan, State.pmpScan, hc]
    | cons i is ih => rw [State.pmpScan, State.pmpScan, hcfg, hin, ih]
  unfold State.pmpOk
  rw [hc]
  exact hscan _

/-- An access that writes and is let through below machine mode lets a store through to each of its bytes. -/
theorem State.pmpScan_byte {s : State} {pa n k : Nat} {a : Access} {p : Priv} (ha : a.writes = true) (hp : p ≠ .m)
    (hk : k < n) {is : List Nat} (h : s.pmpScan pa n a p is = true) : s.pmpScan (pa + k) 1 .store .u is = true := by
  induction is with
  | nil =>
    simp only [State.pmpScan, Bool.or_eq_true, beq_iff_eq, hp, false_or] at h
    simp [State.pmpScan, h]
  | cons i is ih =>
    by_cases hm : s.PmpMatches pa n i
    · obtain ⟨hall, hgranted⟩ := (State.pmpScan_cons_of_matches hm).mp h
      have hbyte : ∀ j, j < 1 → s.PmpHolds i (pa + k + j) := fun j hj => by
        rw [Nat.lt_one_iff.mp hj]; exact hall k hk
      refine (State.pmpScan_cons_of_matches ⟨hm.1, 0, Nat.one_pos, hbyte 0 Nat.one_pos⟩).mpr ⟨hbyte, .inr ?_⟩
      have hg := hgranted.resolve_left fun hm => hp hm.1
      cases a
      case store | storeConditional => exact hg
      case amo => exact (Bool.and_eq_true_iff.mp hg).2
      all_goals cases ha
    · rw [State.pmpScan, if_neg (mt State.pmpMatches_iff.mp hm)] at h
      have hm1 : ¬ s.PmpMatches (pa + k) 1 i := fun ⟨hmode, j, hj, hh⟩ =>
        hm ⟨hmode, k, hk, by rwa [Nat.lt_one_iff.mp hj] at hh⟩
      rw [State.pmpScan, if_neg (mt State.pmpMatches_iff.mp hm1)]
      exact ih h

theorem State.pmpOk_byte {s : State} {pa n b : Nat} {a : Access} {p : Priv} (ha : a.writes = true) (hp : p ≠ .m)
    (hb : b ∈ addrsFrom pa n) (h : s.pmpOk pa n a p = true) : s.pmpOk b 1 .store .u = true := by
  obtain ⟨hlo, hhi⟩ := (mem_addrsFrom _ _ _).mp hb
  obtain ⟨k, rfl⟩ := Nat.exists_eq_add_of_le hlo
  exact State.pmpScan_byte ha hp (by omega) h

theorem State.LookedUp.pmpOk {s t : State} (h : s.LookedUp t) (pa n : Nat) (a : Access) (p : Priv) :
    t.pmpOk pa n a p = s.pmpOk pa n a p := State.pmpOk_congr (by rw [h]) pa n a p

theorem State.LookedUp.priv {s t : State} (h : s.LookedUp t) : t.priv = s.priv := by rw [h]

theorem State.pmpOk_of_locateOne {s t : State} {a : Access} {va : Word} {n pa : Nat}
    (h : s.locateOne a va n = .ok (t, pa)) : s.pmpOk pa n a s.priv = true := by
  have hl := State.lookedUp_locateOne h
  unfold State.locateOne at h
  split at h
  · cases h
  · split at h <;> cases h
    next hok =>
      rw [← hl.pmpOk]
      exact (Bool.and_eq_true_iff.mp hok).1

theorem State.pmpOk_of_locateBytes {s t : State} {a : Access} {va : Word} {n : Nat} {pas : List Nat}
    (h : s.locateBytes a va n = .ok (t, pas)) : ∀ b ∈ pas, s.pmpOk b 1 a s.priv = true := by
  induction n generalizing s t va pas with
  | zero => cases h; exact fun _ hb => nomatch hb
  | succ n ih =>
    simp only [State.locateBytes] at h
    split at h
    · cases h
    · next hu =>
      split at h <;> cases h
      next hv =>
        have hl := State.lookedUp_locateOne hu
        refine List.forall_mem_cons.mpr ⟨State.pmpOk_of_locateOne hu, fun b hb => ?_⟩
        rw [← hl.pmpOk, ← hl.priv]
        exact ih hv b hb

/-- Where a write of an access goes, the PMP lets a store through to every byte. -/
theorem State.pmpOk_of_locate {s t : State} {a : Access} {va : Word} {n : Nat} {p : Place} (ha : a.writes = true)
    (hp : s.priv ≠ .m) (h : s.locate a va n = .ok (t, p)) : ∀ b ∈ p.addrs n, s.pmpOk b 1 .store .u = true := by
  intro b hb
  unfold State.locate at h
  split at h
  · split at h <;> cases h
    next hu => exact State.pmpOk_byte ha hp hb (State.pmpOk_of_locateOne hu)
  split at h
  · cases h
  · split at h <;> cases h
    next hu =>
      exact State.pmpOk_byte ha hp ((mem_addrsFrom _ _ _).mpr ⟨le_rfl, Nat.lt_succ_self b⟩)
        (State.pmpOk_of_locateBytes hu b hb)

theorem Memory.read_writeMain_other {c : Config} {m : Memory} {as : List Nat} {b : Nat} (v : Nat) (h : b ∉ as) :
    (m.writeMain c as v).read b = m.read b := by
  induction as generalizing m v with
  | nil => rfl
  | cons a as ih =>
    obtain ⟨hne, hrest⟩ := not_or.mp (mt List.mem_cons.mpr h)
    rw [Memory.writeMain, ih _ hrest]
    split
    · rfl
    · exact Memory.read_write_other _ hne _

/-- The byte `b`, the mode and the PMP are as in `s`. -/
def State.Guarded (s : State) (b : Nat) (t : State) : Prop :=
  (t.cfg, t.priv, t.pmpcfg, t.pmpaddr) = (s.cfg, s.priv, s.pmpcfg, s.pmpaddr) ∧ t.mem.read b = s.mem.read b

section
variable {s t : State} {b : Nat}

theorem State.Guarded.pmpOk (h : s.Guarded b t) (pa n : Nat) (a : Access) (p : Priv) :
    t.pmpOk pa n a p = s.pmpOk pa n a p := by
  obtain ⟨hsame, _⟩ := h
  simp only [Prod.mk.injEq] at hsame
  obtain ⟨hcfg, _, hpmpcfg, hpmpaddr⟩ := hsame
  exact State.pmpOk_congr (by rw [hcfg, hpmpcfg, hpmpaddr]) pa n a p

theorem State.Guarded.priv (h : s.Guarded b t) : t.priv = s.priv := congrArg (·.2.1) h.1

theorem State.Guarded.storeBytes (h : s.Guarded b t) {as : List Nat} (v : Nat) (hb : b ∉ as) :
    s.Guarded b (t.storeBytes as v) := ⟨h.1, (Memory.read_writeMain_other v hb).trans h.2⟩

/-- A page-table update passes the check of a store, so it leaves a byte that the check forbids. -/
theorem lookupKeeps_guarded (hb : s.pmpOk b 1 .store .u = false) : LookupKeeps (s.Guarded b) where
  cache _ _ _ _ h := h
  update u t pa pte h he := by
    obtain ⟨hok, ht⟩ := State.pteWrite_eq_some he
    rw [ht]
    refine h.storeBytes _ fun hmem => ?_
    have hstore := State.pmpOk_byte rfl (by decide) hmem hok
    rw [h.pmpOk, hb] at hstore
    cases hstore

theorem guarded_writePlace {u : State} {a : Access} {va v : Word} {n : Nat} {p : Place}
    (hb : s.pmpOk b 1 .store .u = false) (hp : s.priv ≠ .m) (hs : s.Guarded b u) (ha : a.writes = true)
    (h : u.locate a va n = .ok (t, p)) (ht : s.Guarded b t) : s.Guarded b (t.writePlace p n v) := by
  unfold State.writePlace
  split
  · next r _ => cases r <;> exact ht
  · refine ht.storeBytes _ fun hmem => ?_
    have hstore := State.pmpOk_of_locate ha (by rwa [hs.priv]) h b hmem
    rw [hs.pmpOk, hb] at hstore
    cases hstore

end

end Sys2Proof.Machine

namespace Sys2Proof.Proofs

open Sys2Proof.Machine

theorem priv_takeTrap_ne_u (s : State) (isInt : Bool) (code : Nat) (epc tval : Word) :
    (s.takeTrap isInt code epc tval).priv ≠ .u := by
  rcases s.takeTrap_cases isInt code epc tval with ⟨_, h⟩ | h <;> rw [h] <;> simp

theorem privileged_ran {s t : State} {len : Word} (hs : s.priv = .u) (ht : t.priv = .u) (h : s.Ran len t) :
    t.privileged = s.privileged := by
  cases h with
  | raised e => exact absurd ht (priv_takeTrap_ne_u _ _ _ _ _)
  | wentOn hu _ ht => rw [ht, hu.written]; rfl
  | jumped _ _ ht => rw [ht]; rfl
  | @wroteCsr _ _ r v ha hp _ ht =>
    have hk := privileged_csrWrite v ha (hs ▸ hp)
    rw [ht]
    exact hk
  | returnedM h => rw [hs] at h; cases h
  | returnedS _ h => exact absurd hs h
  | waits h => exact absurd hs h

theorem privileged_stepped {s t : State} (hs : s.priv = .u) (ht : t.priv = .u) (h : s.Stepped t) :
    t.privileged = s.privileged := by
  cases h with
  | waited =>
    unfold State.waitOn
    split <;> rfl
  | interrupted | fetchRaised | undecodable => exact absurd ht (priv_takeTrap_ne_u _ _ _ _ _)
  | executed hf _ hr =>
    have hu := State.fetch_eq hf
    have hp := privileged_ran (by rw [hu]; exact hs) ht hr
    rw [hp, hu]
    rfl

/-- Settles O58: a trap leaves user mode, returns and waiting are illegal there, and its CSRs are no privileged ones. -/
theorem userModeIsConfined : Obligations.UserModeIsConfined := by
  intro s t hs h ht
  obtain ⟨u, hu, rfl⟩ := stepped_of_step h
  have htick := u.turnTaken_tick
  have hpriv : u.priv = .u := by rw [htick] at ht; exact ht
  have hk := privileged_stepped hs hpriv hu
  rw [htick]
  exact hk

/-- Settles O60: only CSR writes reach the PMP registers, and they pass over those of a locked entry. -/
theorem lockedPmpStays : Obligations.LockedPmpStays := by
  intro s t i hi h
  obtain ⟨u, hu, rfl⟩ := stepped_of_step h
  have hk := entryKept_stepped hi hu
  rw [u.turnTaken_tick]
  exact hk

theorem read_ran {s u t : State} {len : Word} {b : Nat} (hb : s.pmpOk b 1 .store .u = false) (hp : s.priv ≠ .m)
    (hu : s.Guarded b u) (h : u.Ran len t) : t.mem.read b = s.mem.read b := by
  cases h with
  | raised e => rw [State.raise, mem_takeTrap]; exact hu.2
  | wentOn hw _ ht =>
    have hg := (lookupKeeps_guarded hb).accessed (fun _ _ _ _ _ _ => guarded_writePlace hb hp hu) hu hw
    rw [ht]
    exact hg.2
  | jumped _ _ ht => rw [ht]; exact hu.2
  | @wroteCsr _ _ r v _ _ _ ht => rw [ht, u.csrWritten_csrWrite r v]; exact hu.2
  | returnedM | returnedS | waits => exact hu.2

theorem read_stepped {s t : State} {b : Nat} (hb : s.pmpOk b 1 .store .u = false) (hp : s.priv ≠ .m)
    (h : s.Stepped t) : t.mem.read b = s.mem.read b := by
  cases h with
  | waited =>
    unfold State.waitOn
    split <;> rfl
  | interrupted | fetchRaised => exact congrArg (Memory.read · b) (mem_takeTrap _ _ _ _ _)
  | undecodable _ hf =>
    rw [State.raise, mem_takeTrap]
    exact ((lookupKeeps_guarded hb).fetch ⟨rfl, rfl⟩ hf).2
  | executed hf _ ht => exact read_ran hb hp ((lookupKeeps_guarded hb).fetch ⟨rfl, rfl⟩ hf) ht

theorem inputs_stepped {s t : State} (h : s.Stepped t) : t.inputs = s.inputs := congrArg (·.2.2) (counts_stepped h).1

/-- Settles O59: below machine mode every write of memory, also that of a page-table entry, passed the PMP check of a
store. -/
theorem pmpGuardsMemory : Obligations.PmpGuardsMemory := by
  intro s t b hp hi hb h
  obtain ⟨u, hu, rfl⟩ := stepped_of_step h
  have htick : u.tick.mem = u.mem := by
    unfold State.tick
    rw [inputs_stepped hu, hi]
  rw [htick]
  exact read_stepped hb hp hu

end Sys2Proof.Proofs
end

section
/-!
PROOFS. The parts of a step, interrupts, waiting and environment calls (10_state.md rule R52; 47_privileged.md rule R623;
60_exceptions.md rules R700 to R730).
-/

namespace Sys2Proof.Machine

/-! ## Interrupts as bits -/

theorem getLsbD_foldl_intrBits (b : Intr → Bool) (k : Nat) (is : List Intr) (w : Word) :
    (is.foldl (fun w i => if b i then w ||| (1#64 <<< i.code) else w) w).getLsbD k =
      (w.getLsbD k || is.any fun i => b i && decide (i.code = k)) := by
  induction is generalizing w with
  | nil => simp
  | cons i is ih =>
    have hbit : (1#64 <<< i.code).getLsbD k = decide (i.code = k) := by
      have hi : i.code < 64 := by cases i <;> decide
      rw [BitVec.getLsbD_shiftLeft, Bool.eq_iff_iff]
      simp only [BitVec.getLsbD_one, Bool.and_eq_true, decide_eq_true_eq, Bool.not_eq_true', decide_eq_false_iff_not]
      omega
    rw [List.foldl_cons, ih, List.any_cons]
    cases b i
    · simp
    · simp only [if_true, BitVec.getLsbD_or, hbit, Bool.true_and, Bool.or_assoc]

/-- Each bit of the interrupt word is that of the interrupt of this code. -/
theorem getLsbD_intrBits (b : Intr → Bool) (k : Nat) :
    (intrBits b).getLsbD k = intrPriority.any fun i => b i && decide (i.code = k) := by
  rw [intrBits, getLsbD_foldl_intrBits]
  simp

theorem getLsbD_intrBits_code (b : Intr → Bool) (i : Intr) : (intrBits b).getLsbD i.code = b i := by
  rw [getLsbD_intrBits]
  cases i <;> simp [intrPriority, Intr.code]

theorem Intr.code_lt_bits (i : Intr) (x : Xlen) : i.code < x.bits := by cases i <;> cases x <;> decide

section
variable {s : State} {i : Intr}

theorem State.getLsbD_csrRead_mip (s : State) (i : Intr) : (s.csrRead .mip).getLsbD i.code = s.pending i := by
  unfold State.csrRead
  rw [Xlen.getLsbD_norm, decide_eq_true (i.code_lt_bits _), Bool.true_and]
  exact getLsbD_intrBits_code _ i

theorem State.getLsbD_csrRead_mie (s : State) (i : Intr) : (s.csrRead .mie).getLsbD i.code = s.mieBits.getLsbD i.code := by
  unfold State.csrRead
  rw [Xlen.getLsbD_norm, decide_eq_true (i.code_lt_bits _), Bool.true_and]
  rfl

theorem State.pendingEnabled_iff : s.pendingEnabled i = true ↔
    (s.csrRead .mip).getLsbD i.code = true ∧ (s.csrRead .mie).getLsbD i.code = true := by
  rw [s.getLsbD_csrRead_mip, s.getLsbD_csrRead_mie, State.pendingEnabled, Bool.and_eq_true]

theorem State.globallyEnabled_iff : s.globallyEnabled i = true ↔
    if s.cfg.modes.hasS = true ∧ s.mideleg.getLsbD i.code = true then s.priv = .u ∨ (s.priv = .s ∧ s.mstatus.sie = true)
    else s.priv ≠ .m ∨ s.mstatus.mie = true := by
  unfold State.globallyEnabled State.toS
  simp only [Bool.and_eq_true]
  split <;> simp

theorem State.takes_iff : s.Takes i ↔ (s.pendingEnabled i && s.globallyEnabled i) = true := by
  rw [Bool.and_eq_true, State.pendingEnabled_iff, State.globallyEnabled_iff, and_assoc]
  rfl

theorem mem_intrPriority (i : Intr) : i ∈ intrPriority := by cases i <;> decide

theorem State.nextInterrupt_eq_none (h : ∀ j, ¬ s.Takes j) : s.nextInterrupt = none :=
  List.find?_eq_none.mpr fun j _ => mt State.takes_iff.mpr (h j)

/-- The interrupt of the least rank of those that can be taken is the one that is found. -/
theorem State.nextInterrupt_eq_some (h : s.Takes i) (hfirst : ∀ j, s.Takes j → i.rank ≤ j.rank) :
    s.nextInterrupt = some i := by
  have hi := State.takes_iff.mp h
  have hlow (j : Intr) (hj : j.rank < i.rank) : (s.pendingEnabled j && s.globallyEnabled j) = false :=
    Bool.eq_false_iff.mpr fun ht => absurd (hfirst j (State.takes_iff.mpr ht)) (by omega)
  unfold State.nextInterrupt intrPriority
  generalize hf : (fun j => s.pendingEnabled j && s.globallyEnabled j) = f
  replace hi : f i = true := by rw [← hf]; exact hi
  replace hlow : ∀ j : Intr, j.rank < i.rank → f j = false := fun j hj => by rw [← hf]; exact hlow j hj
  have hE := hlow .machineExternal
  have hS := hlow .machineSoftware
  have hT := hlow .machineTimer
  have hE' := hlow .supervisorExternal
  have hS' := hlow .supervisorSoftware
  cases i <;> simp_all [Intr.rank]

theorem State.wakes_iff : s.wakes = true ↔
    ∃ i : Intr, (s.csrRead .mip).getLsbD i.code = true ∧ (s.csrRead .mie).getLsbD i.code = true := by
  simp only [State.wakes, List.any_eq_true, mem_intrPriority, true_and, State.pendingEnabled_iff]

end

/-! ## The fronts of a step -/

section
variable {s u : State} {b : Bits}

theorem step_of_waiting (h : s.waiting = true) : step s = .next s.waitOn.tick := by
  unfold step State.front
  rw [h]
  rfl

theorem step_of_interrupt {i : Intr} (h : s.waiting = false) (hi : s.nextInterrupt = some i) :
    step s = .next (s.interrupt i).tick := by
  unfold step State.front
  rw [h, hi]
  rfl

theorem step_of_fetchDecode (h : s.waiting = false) (hi : s.nextInterrupt = none) :
    step s = match s.fetchDecode with
      | .settled t => .next t.tick
      | .execute t i => ticked (exec i t) := by
  unfold step State.front
  rw [h, hi]
  rfl

theorem fetchDecode_of_error {e : Trap} (h : s.fetch = .error e) : s.fetchDecode = .settled (s.raise e) := by
  unfold State.fetchDecode
  rw [h]

theorem fetchDecode_of_reject {r : Reject} (h : s.fetch = .ok (u, b)) (hd : decode s.cfg b = .error r) :
    s.fetchDecode = .settled (u.raise ⟨.illegalInstruction, b.toWord⟩) := by
  unfold State.fetchDecode
  simp only [h, hd]

theorem fetchDecode_of_decode {i : Instr} (h : s.fetch = .ok (u, b)) (hd : decode s.cfg b = .ok i) :
    s.fetchDecode = .execute u i := by
  unfold State.fetchDecode
  simp only [h, hd]

theorem State.tick_of_no_inputs (h : s.inputs = []) :
    s.tick = { s with cycle := s.cycle + 1, mtime := s.mtime + s.cfg.mtimeTick } := by
  unfold State.tick
  rw [h]

/-- The exception of a step, with its trap value cut to XLEN bits. -/
theorem State.trapped_raise (s : State) (e : Trap) :
    Trapped s (s.raise e) false e.exc.code s.upc (e.tval.toNat % 2 ^ s.width) := by
  have ht := s.trapped_takeTrap false e.exc.code_lt s.getPc e.tval
  rwa [s.getPc_toNat] at ht

end

/-- An instruction that goes on and does nothing else. -/
theorem completes_of_retire {i : Instr} {s : State} {len : Nat} (h : exec i s = .next (s.retire (BitVec.ofNat 64 len))) :
    Completes i s (Effect.nothing (s.fromPc len)) := ⟨_, h, s.did_retire len⟩

end Sys2Proof.Machine

namespace Sys2Proof.Proofs

open Sys2Proof.Machine

/-- Settles O2: each invariant, evaluated on the reset state. -/
theorem resetHasInvariants : Obligations.ResetHasInvariants := by
  refine ⟨rfl, ⟨rfl, rfl⟩, ⟨by decide, by decide⟩, ⟨rfl, rfl, fun _ => .inl rfl, fun i hi => ?_, rfl, rfl⟩,
    fun v hv => nomatch hv⟩
  rw [State.pmpCfgAt_reset ⟨i, hi⟩]
  rfl

/-- Settles O6: the front of the step is the instruction fetched. -/
theorem stepRunsDecoded : Obligations.StepRunsDecoded := by
  intro s u b i hw hno hf hd
  have hs : step s = ticked (exec i u) := by
    rw [step_of_fetchDecode hw (State.nextInterrupt_eq_none hno), fetchDecode_of_decode hf hd]
  exact ⟨hs, fun t ht => by rw [hs, ht]; rfl, fun t => State.tick_of_no_inputs⟩

/-- Settles O8: the front of the step is the trap. -/
theorem fetchFaultsTrap : Obligations.FetchFaultsTrap := by
  intro s hw hno
  have hs := step_of_fetchDecode hw (State.nextInterrupt_eq_none hno)
  refine ⟨fun e he => ?_, fun u b r hf hd => ?_⟩
  · rw [fetchDecode_of_error he] at hs
    exact ⟨_, hs, s.trapped_raise e⟩
  · rw [fetchDecode_of_reject hf hd] at hs
    have ht := u.trapped_raise ⟨.illegalInstruction, b.toWord⟩
    rw [Nat.mod_eq_of_lt (Bits.toWord_lt_width b u)] at ht
    exact ⟨_, hs, ht⟩

/-- Settles O37: the interrupt that is found is the one of the least rank, and taking it is a trap. -/
theorem interruptTaken : Obligations.InterruptTaken := by
  intro s i hw hi hfirst
  refine ⟨_, step_of_interrupt hw (State.nextInterrupt_eq_some hi hfirst), ?_⟩
  have ht := s.trapped_takeTrap true (code := i.code) (by cases i <;> decide) s.getPc 0
  rwa [s.getPc_toNat] at ht

/-- Settles O33: `wfi` and the wait both ask `wakes`, which is that an enabled interrupt is pending. -/
theorem waitForInterrupt : Obligations.WaitForInterrupt := by
  intro s
  dsimp only
  rw [← State.wakes_iff]
  refine ⟨fun hu => isIllegal_of_illegal (if_pos hu), fun hu hdue => ?_, fun hu hnop hdue => ?_, fun hw hdue => ?_,
    fun hw hdue => ⟨s.waitOn, step_of_waiting hw, ?_⟩⟩
  · exact completes_of_retire ((if_neg hu).trans (if_pos hdue))
  · exact (if_neg hu).trans (if_neg (by simp [hnop, hdue]))
  · rw [step_of_waiting hw, State.waitOn, if_neg hdue]
  · rw [State.waitOn, if_pos hdue]
    exact ⟨s.pcPlus_toNat 4, rfl⟩

/-- Settles O30: each is one `raise`, whose cause for `ecall` follows the mode. -/
theorem environmentCalls : Obligations.EnvironmentCalls := by
  intro s
  have hcall (e : Exc) (h : (match s.priv with | .u => Exc.ecallU | .s => .ecallS | .m => .ecallM) = e) :
      Raises .ecall s e.code 0 := raises_of_raise (e := ⟨e, 0⟩) (by subst h; rfl) (Nat.two_pow_pos _)
  exact ⟨fun h => hcall .ecallU (by rw [h]), fun h => hcall .ecallS (by rw [h]), fun h => hcall .ecallM (by rw [h]),
    raises_of_raise (e := ⟨.breakpoint, 0⟩) rfl (Nat.two_pow_pos _),
    raises_of_raise (e := ⟨.breakpoint, 0⟩) rfl (Nat.two_pow_pos _)⟩

end Sys2Proof.Proofs
end

section
/-!
PROOFS. Words as integers modulo `2^XLEN` (00_scope.md rule R12), and with them the computing instructions
(40_rv32i.md rules R231 to R251; 41_rv64i.md rules R307 to R315; 42_m.md rules R334 to R338; 45_c.md rules R510 to R549).
-/

namespace Sys2Proof.Machine

/-! ## Cutting integers -/

theorem wrap_congr {n : Nat} {a b : Int} (h : a ≡ b [ZMOD 2 ^ n]) : wrap n a = wrap n b := by
  unfold wrap
  rw [h]

theorem wrap_natCast_mod (n a : Nat) : wrap n a = a % 2 ^ n := by
  unfold wrap
  norm_cast

theorem wrap_lt (n : Nat) (a : Int) : wrap n a < 2 ^ n := by
  rw [← toNat_ofInt_eq_wrap]
  exact (BitVec.ofInt n a).isLt

theorem toNat_eq_wrap_toInt {n : Nat} (v : BitVec n) : v.toNat = wrap n v.toInt := by
  rw [← toNat_ofInt_eq_wrap, BitVec.ofInt_toInt]

/-- Cutting back to an integer the pattern of an integer. -/
theorem wrap_modEq (n : Nat) (a : Int) : (wrap n a : Int) ≡ a [ZMOD 2 ^ n] := by
  unfold wrap
  rw [Int.toNat_of_nonneg (Int.emod_nonneg _ (by positivity))]
  exact Int.mod_modEq _ _

/-! ## A word and the integer it stands for -/

/-- The word is the integer modulo `2^n`. -/
def Stands (n : Nat) {k : Nat} (v : BitVec k) (a : Int) : Prop := (v.toNat : Int) ≡ a [ZMOD 2 ^ n]

section
variable {n k : Nat} {v w : BitVec k} {a b : Int}

theorem Stands.toNat_mod (h : Stands n v a) : v.toNat % 2 ^ n = wrap n a := by
  rw [← wrap_natCast_mod]
  exact wrap_congr h

theorem Stands.congr (h : Stands n v a) (hab : a ≡ b [ZMOD 2 ^ n]) : Stands n v b := Int.ModEq.trans h hab

theorem stands_toNat (v : BitVec k) : Stands n v v.toNat := Int.ModEq.refl _

theorem stands_toInt (hk : n ≤ k) (v : BitVec k) : Stands n v v.toInt := by
  unfold Stands
  conv_lhs => rw [toNat_eq_wrap_toInt v]
  exact (wrap_modEq k v.toInt).of_dvd (pow_dvd_pow 2 hk)

/-- A pattern cut to `k` bits is the same modulo `2^n`. -/
theorem natCast_mod_modEq (hk : n ≤ k) (m : Nat) : ((m % 2 ^ k : Nat) : Int) ≡ m [ZMOD 2 ^ n] := by
  rw [← wrap_natCast_mod]
  exact (wrap_modEq k m).of_dvd (pow_dvd_pow 2 hk)

theorem Stands.add (hk : n ≤ k) (hv : Stands n v a) (hw : Stands n w b) : Stands n (v + w) (a + b) := by
  unfold Stands at *
  rw [BitVec.toNat_add]
  refine (natCast_mod_modEq hk _).trans ?_
  push_cast
  exact hv.add hw

theorem Stands.sub (hk : n ≤ k) (hv : Stands n v a) (hw : Stands n w b) : Stands n (v - w) (a - b) := by
  refine (stands_toInt hk (v - w)).congr ?_
  have hi (u : BitVec k) : u.toInt ≡ u.toNat [ZMOD 2 ^ n] := (stands_toInt hk u).symm
  rw [BitVec.toInt_sub]
  have hb : (v.toInt - w.toInt).bmod (2 ^ k) ≡ v.toInt - w.toInt [ZMOD 2 ^ n] := by
    refine Int.ModEq.of_dvd (pow_dvd_pow 2 hk) ?_
    have := Int.bmod_emod (x := v.toInt - w.toInt) (m := 2 ^ k)
    exact_mod_cast this
  exact hb.trans (((hi v).trans hv).sub ((hi w).trans hw))

theorem Stands.mul (hk : n ≤ k) (hv : Stands n v a) (hw : Stands n w b) : Stands n (v * w) (a * b) := by
  unfold Stands at *
  rw [BitVec.toNat_mul]
  refine (natCast_mod_modEq hk _).trans ?_
  push_cast
  exact Int.ModEq.mul hv hw

theorem Stands.shiftLeft (hk : n ≤ k) (hv : Stands n v a) (i : Nat) : Stands n (v <<< i) (a * 2 ^ i) := by
  unfold Stands at *
  rw [BitVec.toNat_shiftLeft, Nat.shiftLeft_eq]
  refine (natCast_mod_modEq hk _).trans ?_
  push_cast
  exact Int.ModEq.mul_right _ hv

theorem stands_sshiftRight (hk : n ≤ k) (v : BitVec k) (i : Nat) : Stands n (v.sshiftRight i) (v.toInt / 2 ^ i) := by
  refine (stands_toInt hk _).congr ?_
  rw [BitVec.toInt_sshiftRight, Int.shiftRight_eq_div_pow]
  push_cast
  exact Int.ModEq.refl _

end

/-! ## Immediates and registers -/

theorem Xlen.sext_toNat {k : Nat} (hk : k ≤ 64) (x : Xlen) (v : BitVec k) : (x.sext v).toNat = wrap x.bits v.toInt := by
  have hx : x.bits ≤ 64 := by cases x <;> decide
  rw [Xlen.sext, Xlen.norm_toNat, toNat_eq_wrap_toInt, BitVec.toInt_signExtend_of_le hk, wrap_mod_two_pow hx]

/-- An immediate whose low `j` bits are not stored. -/
theorem toInt_append_zeros {k : Nat} (v : BitVec k) (j : Nat) : (v ++ 0#j).toInt = v.toInt * 2 ^ j := by
  rw [BitVec.toInt_append_zero, mul_comm]

theorem scaled_toNat {k : Nat} (v : BitVec k) (j : Nat) (h : k + j ≤ 64) : (scaled v j).toNat = v.toNat * 2 ^ j := by
  unfold scaled
  rw [BitVec.toNat_setWidth, BitVec.toNat_append, Nat.shiftLeft_eq]
  simp only [BitVec.toNat_ofNat, Nat.zero_mod, Nat.or_zero]
  refine Nat.mod_eq_of_lt ?_
  calc v.toNat * 2 ^ j < 2 ^ k * 2 ^ j := Nat.mul_lt_mul_of_pos_right v.isLt (Nat.two_pow_pos j)
    _ = 2 ^ (k + j) := (pow_add 2 k j).symm
    _ ≤ 2 ^ 64 := Nat.pow_le_pow_right (by decide) h

section
variable (s : State)

theorem State.stands_getX (r : Reg) : Stands s.width (s.getX r) (s.ux r) := stands_toNat _

theorem State.getSx_toInt (r : Reg) : (s.getSx r).toInt = s.ix r := s.intX_eq_ix r

theorem State.stands_sext {k : Nat} (hk : k ≤ 64) (v : BitVec k) : Stands s.width (s.cfg.xlen.sext v) v.toInt := by
  unfold Stands
  rw [Xlen.sext_toNat hk]
  exact wrap_modEq _ _

/-- An address relative to `pc` depends on the distance modulo `2^XLEN`. -/
theorem State.fromPc_congr {a b : Int} (h : a ≡ b [ZMOD 2 ^ s.width]) : s.fromPc a = s.fromPc b :=
  wrap_congr (h.add_left _)

theorem State.eaOf_congr (r : Reg) {a b : Int} (h : a ≡ b [ZMOD 2 ^ s.width]) : s.eaOf r a = s.eaOf r b :=
  wrap_congr (h.add_left _)

/-- The integer of a word that stands for `a`, modulo `2^XLEN`. -/
theorem State.toInt_modEq {v : Word} {a : Int} (h : Stands s.width v a) : v.toInt ≡ a [ZMOD 2 ^ s.width] :=
  (stands_toInt s.width_le v).symm.trans h

theorem State.pcTarget_of_stands {d : Word} {a : Int} (h : Stands s.width d a) : (s.pcTarget d).toNat = s.fromPc a := by
  rw [State.pcTarget_toNat]
  exact s.fromPc_congr (s.toInt_modEq h)

theorem State.ea_of_stands (r : Reg) {d : Word} {a : Int} (h : Stands s.width d a) : (s.ea r d).toNat = s.eaOf r a := by
  rw [State.ea_toNat]
  exact s.eaOf_congr r (s.toInt_modEq h)

theorem State.pcTarget_offset {k : Nat} (hk : k + 1 ≤ 64) (off : BitVec k) :
    (s.pcTarget (offset s.cfg.xlen off)).toNat = s.fromPc (off.toInt * 2) :=
  s.pcTarget_of_stands ((s.stands_sext hk _).congr (by rw [toInt_append_zeros]; exact Int.ModEq.refl _))

end

theorem Stands.toNat_eq {n : Nat} {v : BitVec n} {a : Int} (h : Stands n v a) : v.toNat = wrap n a := by
  rw [← h.toNat_mod, Nat.mod_eq_of_lt v.isLt]

theorem State.stands_getW (s : State) (r : Reg) : Stands 32 (s.getW r) (s.uw r) := by
  rw [← s.getW_toNat]
  exact stands_toNat _

theorem State.stands_scaled (s : State) {k : Nat} (v : BitVec k) (j : Nat) (h : k + j ≤ 64) :
    Stands s.width (scaled v j) ((v.toNat * 2 ^ j : Nat) : Int) := by
  rw [← scaled_toNat v j h]
  exact stands_toNat _

theorem stands_signExtend {n k j : Nat} (hn : n ≤ j) (hk : k ≤ j) (v : BitVec k) :
    Stands n (v.signExtend j) v.toInt := by
  rw [← BitVec.toInt_signExtend_of_le (v := j) hk]
  exact stands_toInt hn _

/-! ## Results -/

section
variable {s : State} {i : Instr} {rd : Reg} {len n : Nat}

/-- An instruction that writes a word which stands for an integer. -/
theorem givesX_of_stands {v : Word} {a : Int} (h : exec i s = s.writeX rd v (BitVec.ofNat 64 len))
    (hv : Stands s.width v a) (hn : wrap s.width a = n) : GivesX i s len rd n :=
  givesX_of_writeX h (hv.toNat_mod.trans hn)

/-- An instruction that writes a word of XLEN bits. -/
theorem givesX_of_toNat {v : Word} (h : exec i s = s.writeX rd v (BitVec.ofNat 64 len)) (hv : v.toNat = n)
    (hn : n < 2 ^ s.width) : GivesX i s len rd n :=
  givesX_of_writeX h (by rw [hv, Nat.mod_eq_of_lt hn])

theorem ofFlag_toNat (b : Bool) : (ofFlag b).toNat = if b then 1 else 0 := by cases b <;> rfl

theorem flag_lt (s : State) (p : Prop) [Decidable p] : (if p then 1 else 0) < 2 ^ s.width := by
  have h2 : 2 ^ 1 ≤ 2 ^ s.width := Nat.pow_le_pow_right (by decide) (by
    unfold State.width
    rcases Xlen.bits_cases s.cfg.xlen with h | h <;> rw [h] <;> decide)
  split <;> omega

/-- An instruction that writes a truth value. -/
theorem givesX_of_flag {b : Bool} {p : Prop} [Decidable p] (h : exec i s = s.writeX rd (ofFlag b) (BitVec.ofNat 64 len))
    (hb : b = true ↔ p) : GivesX i s len rd (if p then 1 else 0) := by
  refine givesX_of_toNat h ?_ (flag_lt s p)
  rw [ofFlag_toNat]
  exact if_congr hb rfl rfl

end

end Sys2Proof.Machine

namespace Sys2Proof.Proofs

open Sys2Proof.Machine

/-- Settles O10: each result as an integer modulo `2^XLEN`, or as the pattern it is. -/
theorem registerArithmetic : Obligations.RegisterArithmetic := by
  intro s rd rs1 rs2
  have hw := s.width_le
  have h1 := s.ux_lt rs1
  have h2 := s.ux_lt rs2
  refine ⟨?add, ?sub, ?sll, ?slt, ?sltu, ?xor, ?srl, ?sra, ?or, ?and⟩
  case add => exact givesX_of_stands rfl ((s.stands_getX rs1).add hw (s.stands_getX rs2)) (by
    rw [← Nat.cast_add, wrap_natCast_mod])
  case sub => exact givesX_of_stands rfl ((s.stands_getX rs1).sub hw (s.stands_getX rs2)) rfl
  case sll => exact givesX_of_stands rfl ((s.stands_getX rs1).shiftLeft hw _) (by
    rw [← wrap_natCast_mod]; push_cast; rfl)
  case slt => exact givesX_of_flag rfl (by rw [BitVec.slt_iff_toInt_lt, s.getSx_toInt, s.getSx_toInt])
  case sltu => exact givesX_of_flag rfl (by rw [BitVec.ult_iff_lt]; rfl)
  case xor => exact givesX_of_toNat rfl (BitVec.toNat_xor ..) (Nat.xor_lt_two_pow h1 h2)
  case srl =>
    exact givesX_of_toNat rfl (by rw [BitVec.toNat_ushiftRight, Nat.shiftRight_eq_div_pow]; rfl)
      ((Nat.div_le_self _ _).trans_lt h1)
  case sra => exact givesX_of_stands rfl (stands_sshiftRight hw _ _) (by rw [s.getSx_toInt]; rfl)
  case or => exact givesX_of_toNat rfl (BitVec.toNat_or ..) (Nat.or_lt_two_pow h1 h2)
  case and => exact givesX_of_toNat rfl (BitVec.toNat_and ..) (Nat.and_lt_two_pow _ h2)

/-- Settles O11: an immediate is its integer modulo `2^XLEN`. -/
theorem immediateArithmetic : Obligations.ImmediateArithmetic := by
  intro s rd rs1 imm shamt up
  have hw := s.width_le
  have h1 := s.ux_lt rs1
  have himm : (s.cfg.xlen.sext imm).toNat = wrap s.width imm.toInt := Xlen.sext_toNat (by decide) _ imm
  have hlt := wrap_lt s.width imm.toInt
  have hup : Stands s.width (immU s.cfg.xlen up) (up.toInt * 4096) :=
    (s.stands_sext (by decide) _).congr (by rw [toInt_append_zeros]; exact Int.ModEq.refl _)
  refine ⟨?addi, ?slti, ?sltiu, ?xori, ?ori, ?andi, ?slli, ?srli, ?srai, ?lui, ?auipc⟩
  case addi => exact givesX_of_stands rfl ((s.stands_getX rs1).add hw (s.stands_sext (by decide) imm)) rfl
  case slti => exact givesX_of_flag rfl (by
    rw [BitVec.slt_iff_toInt_lt, s.getSx_toInt, BitVec.toInt_signExtend_of_le (by decide)])
  case sltiu => exact givesX_of_flag rfl (by rw [BitVec.ult_iff_lt, BitVec.lt_def, himm]; rfl)
  case xori => exact givesX_of_toNat rfl (by rw [BitVec.toNat_xor, himm]; rfl) (Nat.xor_lt_two_pow h1 hlt)
  case ori => exact givesX_of_toNat rfl (by rw [BitVec.toNat_or, himm]; rfl) (Nat.or_lt_two_pow h1 hlt)
  case andi => exact givesX_of_toNat rfl (by rw [BitVec.toNat_and, himm]; rfl) (Nat.and_lt_two_pow _ hlt)
  case slli => exact givesX_of_stands rfl ((s.stands_getX rs1).shiftLeft hw _) (by
    rw [← wrap_natCast_mod]; push_cast; rfl)
  case srli =>
    exact givesX_of_toNat rfl (by rw [BitVec.toNat_ushiftRight, Nat.shiftRight_eq_div_pow]; rfl)
      ((Nat.div_le_self _ _).trans_lt h1)
  case srai => exact givesX_of_stands rfl (stands_sshiftRight hw _ _) (by rw [s.getSx_toInt])
  case lui => exact givesX_of_stands rfl hup rfl
  case auipc => exact givesX_of_toNat rfl (s.pcTarget_of_stands hup) (wrap_lt _ _)

/-- Settles O12: the low words as integers modulo `2^32`, and the result sign-extended. -/
theorem wordArithmetic : Obligations.WordArithmetic := by
  intro s rd rs1 rs2 imm shamt
  have h1 := s.stands_getW rs1
  have h2 := s.stands_getW rs2
  refine ⟨?addiw, ?slliw, ?srliw, ?sraiw, ?addw, ?subw, ?sllw, ?srlw, ?sraw⟩
  case addiw => exact givesX_of_sextW rfl (h1.add le_rfl (stands_signExtend le_rfl (by decide) imm)).toNat_eq
  case slliw =>
    refine givesX_of_sextW rfl ((h1.shiftLeft le_rfl _).toNat_eq.trans ?_)
    rw [← wrap_natCast_mod]; push_cast; rfl
  case srliw =>
    refine givesX_of_sextW rfl ?_
    rw [BitVec.toNat_ushiftRight, Nat.shiftRight_eq_div_pow, s.getW_toNat]
  case sraiw =>
    refine givesX_of_sextW rfl ((stands_sshiftRight le_rfl _ _).toNat_eq.trans ?_)
    rw [s.getW_toInt]
  case addw =>
    refine givesX_of_sextW rfl ((h1.add le_rfl h2).toNat_eq.trans ?_)
    rw [← Nat.cast_add, wrap_natCast_mod]
  case subw => exact givesX_of_sextW rfl (h1.sub le_rfl h2).toNat_eq
  case sllw =>
    refine givesX_of_sextW rfl ((h1.shiftLeft le_rfl _).toNat_eq.trans ?_)
    rw [← wrap_natCast_mod]; push_cast; rfl
  case srlw =>
    refine givesX_of_sextW rfl ?_
    rw [BitVec.toNat_ushiftRight, Nat.shiftRight_eq_div_pow, s.getW_toNat]
    rfl
  case sraw =>
    refine givesX_of_sextW rfl ((stands_sshiftRight le_rfl _ _).toNat_eq.trans ?_)
    rw [s.getW_toInt]
    rfl

/-- Settles O13: the product of the operands as integers, low or high half. -/
theorem multiply : Obligations.Multiply := by
  intro s rd rs1 rs2
  refine ⟨?mul, ?mulh, ?mulhsu, ?mulhu, ?mulw⟩
  case mul =>
    refine givesX_of_stands rfl ((s.stands_getX rs1).mul s.width_le (s.stands_getX rs2)) ?_
    rw [← Nat.cast_mul, wrap_natCast_mod]
  case mulh => exact givesX_of_ofInt rfl (by rw [s.intX_eq_ix, s.intX_eq_ix]; rfl)
  case mulhsu => exact givesX_of_ofInt rfl (by rw [s.intX_eq_ix]; rfl)
  case mulhu =>
    have hlt : s.ux rs1 * s.ux rs2 / 2 ^ s.width < 2 ^ s.width :=
      Nat.div_lt_of_lt_mul (Nat.mul_lt_mul'' (s.ux_lt rs1) (s.ux_lt rs2))
    refine givesX_of_ofInt rfl (Eq.trans ?_ (wrap_natCast hlt))
    push_cast
    rfl
  case mulw =>
    refine givesX_of_sextW rfl (((s.stands_getW rs1).mul le_rfl (s.stands_getW rs2)).toNat_eq.trans ?_)
    rw [← Nat.cast_mul, wrap_natCast_mod]

/-- Settles O15: each compressed instruction as its expansion. -/
theorem compressedArithmetic : Obligations.CompressedArithmetic := by
  intro s rd rs2 rd' rs2' imm uimm u8
  have hw := s.width_le
  have himm := s.stands_sext (by decide) imm
  have hx := s.stands_getX rd'.reg
  have hy := s.stands_getX rs2'.reg
  have hxlt := s.ux_lt rd'.reg
  have hylt := s.ux_lt rs2'.reg
  refine ⟨?addi4spn, ?addi, ?addiw, ?li, ?addi16sp, ?lui, ?srli, ?srai, ?andi, ?sub, ?xor, ?or, ?and, ?subw, ?addw,
    ?slli, ?mv, ?add, completes_of_retire rfl⟩
  case addi4spn =>
    refine givesX_of_stands rfl ((s.stands_getX sp).add hw (s.stands_scaled u8 2 (by decide))) ?_
    rw [← Nat.cast_add, wrap_natCast_mod]
    rfl
  case addi => exact givesX_of_stands rfl ((s.stands_getX rd).add hw himm) rfl
  case addiw =>
    exact givesX_of_sextW rfl ((s.stands_getW rd).add le_rfl (stands_signExtend le_rfl (by decide) imm)).toNat_eq
  case li => exact givesX_of_stands rfl himm rfl
  case addi16sp =>
    refine givesX_of_stands rfl ((s.stands_getX sp).add hw (s.stands_sext (by decide) _)) ?_
    rw [toInt_append_zeros]
    rfl
  case lui =>
    refine givesX_of_stands rfl (s.stands_sext (by decide) _) ?_
    rw [toInt_append_zeros]
    rfl
  case srli =>
    refine givesX_of_toNat rfl ?_ ((Nat.div_le_self _ _).trans_lt hxlt)
    rw [BitVec.toNat_ushiftRight, Nat.shiftRight_eq_div_pow]
    rfl
  case srai => exact givesX_of_stands rfl (stands_sshiftRight hw _ _) (by rw [s.getSx_toInt])
  case andi =>
    refine givesX_of_toNat rfl ?_ (Nat.and_lt_two_pow _ (wrap_lt _ _))
    rw [BitVec.toNat_and, Xlen.sext_toNat (by decide)]
    rfl
  case sub => exact givesX_of_stands rfl (hx.sub hw hy) rfl
  case xor => exact givesX_of_toNat rfl (BitVec.toNat_xor ..) (Nat.xor_lt_two_pow hxlt hylt)
  case or => exact givesX_of_toNat rfl (BitVec.toNat_or ..) (Nat.or_lt_two_pow hxlt hylt)
  case and => exact givesX_of_toNat rfl (BitVec.toNat_and ..) (Nat.and_lt_two_pow _ hylt)
  case subw => exact givesX_of_sextW rfl ((s.stands_getW rd'.reg).sub le_rfl (s.stands_getW rs2'.reg)).toNat_eq
  case addw =>
    refine givesX_of_sextW rfl (((s.stands_getW rd'.reg).add le_rfl (s.stands_getW rs2'.reg)).toNat_eq.trans ?_)
    rw [← Nat.cast_add, wrap_natCast_mod]
  case slli =>
    refine givesX_of_stands rfl ((s.stands_getX rd).shiftLeft hw _) ?_
    rw [← wrap_natCast_mod]; push_cast; rfl
  case mv => exact givesX_of_toNat rfl rfl (s.ux_lt rs2)
  case add =>
    refine givesX_of_stands rfl ((s.stands_getX rd).add hw (s.stands_getX rs2)) ?_
    rw [← Nat.cast_add, wrap_natCast_mod]

end Sys2Proof.Proofs
end

section
/-!
PROOFS. Branches and jumps (40_rv32i.md rules R261 to R271; 45_c.md rules R522, R536 to R538, R545, R548).
-/

namespace Sys2Proof.Machine

section
variable {s : State} {i : Instr} {target : Word} {len n : Nat}

/-- A jump whose target is aligned. -/
theorem State.jumpTo_of_aligned (h : target.toNat % s.ialign = 0) : s.jumpTo target = .ok (s.retireAt target) :=
  if_pos ((s.ialignRest_eq_zero_iff target).mpr h)

/-- A jump whose target is not aligned. -/
theorem State.jumpTo_of_misaligned (h : target.toNat % s.ialign ≠ 0) :
    s.jumpTo target = .error ⟨.instrMisaligned, target⟩ :=
  if_neg (mt (s.ialignRest_eq_zero_iff target).mp h)

/-- Going to a target with a link. -/
theorem State.did_jumpLink (s : State) (rd : Reg) (target : Word) (len : Nat) :
    Did s ((s.retireAt target).setX rd (s.pcPlus (BitVec.ofNat 64 len)))
      { Effect.nothing target.toNat with x := some (rd, s.fromPc len) } := by
  refine Did.of_registers rfl rfl rfl rfl (fun r => ?_) (fun r => by simp [Effect.nothing]; rfl)
    (by simp [Effect.nothing]) rfl rfl
  have hx : (s.retireAt target).getX r = s.getX r := rfl
  simp only [State.ux, State.getX_setX, hx, Option.map_some, Option.some.injEq, Option.getD_some]
  split
  · rw [Xlen.norm_toNat, s.pcPlus_toNat]
    exact Nat.mod_eq_of_lt (wrap_lt _ _)
  · rfl

/-- A conditional branch to a target of XLEN bits: taken and aligned, taken and misaligned, not taken. -/
theorem branch_goes {b : Bool} {off : Word} {taken : Prop} (h : exec i s = s.branch b off (BitVec.ofNat 64 len))
    (hb : b = true ↔ taken) (ht : (s.pcTarget off).toNat = n) :
    (taken → n % s.ialign = 0 → Completes i s (Effect.nothing n)) ∧
    (taken → n % s.ialign ≠ 0 → Raises i s 0 n) ∧
    (¬ taken → Completes i s (Effect.nothing (s.fromPc len))) := by
  subst ht
  unfold State.branch at h
  refine ⟨fun htk hal => ?_, fun htk hal => ?_, fun htk => ?_⟩
  · rw [if_pos (hb.mpr htk), State.jumpTo_of_aligned hal] at h
    exact ⟨_, h, s.did_retireAt _ _ rfl⟩
  · rw [if_pos (hb.mpr htk), State.jumpTo_of_misaligned hal] at h
    refine raises_of_raise (e := ⟨.instrMisaligned, s.pcTarget off⟩) h ?_
    rw [s.pcTarget_toNat]
    exact wrap_lt _ _
  · rw [if_neg (mt hb.mp htk)] at h
    exact completes_of_retire h

/-- A jump to a target of XLEN bits. -/
theorem jumpLink_goes {rd : Reg} (h : exec i s = s.jumpLink rd target (BitVec.ofNat 64 len)) (ht : target.toNat = n)
    (hlt : n < 2 ^ s.width) :
    (n % s.ialign = 0 → JumpsTo i s len rd n) ∧ (n % s.ialign ≠ 0 → Raises i s 0 n) := by
  subst ht
  unfold State.jumpLink at h
  refine ⟨fun hal => ?_, fun hal => ?_⟩
  · rw [State.jumpTo_of_aligned hal] at h
    exact ⟨_, h, s.did_jumpLink rd target len⟩
  · rw [State.jumpTo_of_misaligned hal] at h
    exact raises_of_raise (e := ⟨.instrMisaligned, target⟩) h hlt

theorem State.jalrTarget_toNat (s : State) (rs1 : Reg) {off : Word} {d : Int} (h : Stands s.width off d) :
    (s.jalrTarget rs1 off).toNat = s.eaOf rs1 d / 2 * 2 := by
  rw [State.jalrTarget, evenBase_toNat, ← s.ea_of_stands rs1 h]
  rfl

theorem State.eaOf_zero (s : State) (r : Reg) : s.eaOf r 0 = s.ux r := by
  unfold State.eaOf
  rw [add_zero, wrap_natCast (s.ux_lt r)]

theorem even_lt {a m : Nat} (h : a < m) : a / 2 * 2 < m := (Nat.div_mul_le_self a 2).trans_lt h

end

end Sys2Proof.Machine

namespace Sys2Proof.Proofs

open Sys2Proof.Machine

/-- Settles O16: each is one `branch`, with its condition as numbers. -/
theorem branches : Obligations.Branches := by
  intro s rs1 rs2 r off off8
  have hoff := s.pcTarget_offset (by decide) off
  have hoff8 := s.pcTarget_offset (by decide) off8
  refine ⟨branch_goes rfl ?eq hoff, branch_goes rfl ?ne hoff, branch_goes rfl ?lt hoff, branch_goes rfl ?ge hoff,
    branch_goes rfl ?ltu hoff, branch_goes rfl ?geu hoff, branch_goes rfl ?eqz hoff8, branch_goes rfl ?nez hoff8⟩
  case eq => rw [beq_iff_eq, ← BitVec.toNat_inj]; rfl
  case ne => rw [bne_iff_ne, ne_eq, ← BitVec.toNat_inj]; rfl
  case lt => rw [BitVec.slt_iff_toInt_lt, s.getSx_toInt, s.getSx_toInt]
  case ge => rw [Bool.not_eq_true', ← Bool.not_eq_true, BitVec.slt_iff_toInt_lt, s.getSx_toInt, s.getSx_toInt, not_lt]
  case ltu => rw [BitVec.ult_iff_lt]; rfl
  case geu => rw [Bool.not_eq_true', ← Bool.not_eq_true, BitVec.ult_iff_lt, BitVec.not_lt]; rfl
  case eqz => rw [beq_iff_eq, ← BitVec.toNat_inj]; rfl
  case nez => rw [bne_iff_ne, ne_eq, ← BitVec.toNat_inj]; rfl

/-- Settles O17: each is one `jumpLink`; the compressed jumps link nothing or `x1`. -/
theorem jumps : Obligations.Jumps := by
  intro s rd rs1 off imm off11
  have hpc (d : Int) : s.fromPc d < 2 ^ s.width := wrap_lt _ _
  have hzero : (s.jalrTarget rs1 0).toNat = s.ux rs1 / 2 * 2 := by
    have h0 : Stands s.width (0 : Word) 0 := Int.ModEq.refl 0
    rw [s.jalrTarget_toNat rs1 h0, s.eaOf_zero]
  have hx := even_lt (s.ux_lt rs1)
  exact ⟨jumpLink_goes rfl (s.pcTarget_offset (by decide) off) (hpc _),
    jumpLink_goes rfl (s.jalrTarget_toNat rs1 (s.stands_sext (by decide) imm)) (even_lt (wrap_lt _ _)),
    jumpLink_goes rfl (s.pcTarget_offset (by decide) off11) (hpc _),
    jumpLink_goes rfl (s.pcTarget_offset (by decide) off11) (hpc _),
    jumpLink_goes rfl hzero hx, jumpLink_goes rfl hzero hx⟩

end Sys2Proof.Proofs
end

section
/-!
PROOFS. Loads, stores, atomics in main memory (20_memory.md rules R101, R105 to R109; 40_rv32i.md rules R252 to R260;
43_a.md rules R363 to R387; 44_fd.md rules R410 to R413; 45_c.md rules R511 to R553).
-/

namespace Sys2Proof.Machine

/-! ## Addresses -/

section
variable (s : State)

theorem State.eaImm_toNat (r : Reg) (imm : BitVec 12) : (s.eaImm r imm).toNat = s.eaOf r imm.toInt :=
  s.ea_of_stands r (s.stands_sext (by decide) imm)

/-- The address of a compressed access: the offset is stored without its low `j` bits. -/
theorem State.ea_scaled (r : Reg) {k : Nat} (u : BitVec k) (j : Nat) (h : k + j ≤ 64) :
    (s.ea r (scaled u j)).toNat = s.eaOf r (u.toNat * (2 ^ j : Nat)) := by
  rw [← Nat.cast_mul]
  exact s.ea_of_stands r (s.stands_scaled u j h)

theorem State.eaOf_lt (r : Reg) (d : Int) : s.eaOf r d < 2 ^ s.width := wrap_lt _ _

end

/-! ## Loads into x registers -/

/-- The low `k` bits sign-extended, as a register holds them. -/
theorem State.signExtend_setWidth_mod (s : State) {k : Nat} (hk : k ≤ 64) {v : Word} (hv : v.toNat < 2 ^ k) :
    ((v.setWidth k).signExtend 64).toNat % 2 ^ s.width = wrap s.width (signed k v.toNat) := by
  rw [(stands_signExtend s.width_le hk (v.setWidth k)).toNat_mod, ← signed_toNat, BitVec.toNat_setWidth,
    Nat.mod_eq_of_lt hv]

theorem State.width_ge (s : State) : 32 ≤ s.width := by
  unfold State.width
  rcases Xlen.bits_cases s.cfg.xlen with h | h <;> omega

theorem State.mod_width_of_lt (s : State) {m n : Nat} (h : m < 2 ^ n) (hn : n ≤ 32) : m % 2 ^ s.width = m :=
  Nat.mod_eq_of_lt (h.trans_le (Nat.pow_le_pow_right (by decide) (hn.trans s.width_ge)))

section
variable {i : Instr} {s : State} {rd : Reg} {a v : Word} {n len m k : Nat}

theorem loadsX_at {ext : Word → Word} {value : Nat → Nat} (hn : IsSize n)
    (h : exec i s = s.loadX rd a n ext (BitVec.ofNat 64 len)) (ha : a.toNat = m) (hm : m < 2 ^ s.width)
    (hv : ∀ v : Word, v.toNat < 256 ^ n → (ext v).toNat % 2 ^ s.width = value v.toNat) :
    LoadsX i s len n m rd value := by
  subst ha
  exact loadsX_of_loadX hn h hm hv

theorem stores_at (hn : IsSize n) (h : exec i s = s.storeTo a n v (BitVec.ofNat 64 len)) (ha : a.toNat = m)
    (hm : m < 2 ^ s.width) (hv : v.toNat = k) : Stores i s len n m k := by
  subst ha
  exact stores_of_storeTo hn h hm hv

/-! ## Loads into f registers -/

theorem State.accrue_zero (s : State) : s.accrue 0 = s := by
  unfold State.accrue
  simp

theorem State.box_eq_boxed (s : State) (v : BitVec 32) : s.box v = s.boxed v.toNat := by
  have hmod : v.toNat % 2 ^ 32 = v.toNat := Nat.mod_eq_of_lt v.isLt
  unfold State.box State.boxed State.flen64
  rw [hmod]
  split
  · refine BitVec.eq_of_toNat_eq ?_
    rw [BitVec.toNat_append, ← Nat.shiftLeft_add_eq_or_of_lt v.isLt, Nat.shiftLeft_eq]
    have := v.isLt
    simp only [BitVec.toNat_ofNat]
    omega
  · refine BitVec.eq_of_toNat_eq ?_
    rw [BitVec.toNat_setWidth, BitVec.toNat_ofNat]

theorem State.boxed_fits (s : State) (v : Nat) : s.flen64 = true ∨ (s.boxed v).toNat < 2 ^ 32 := by
  unfold State.boxed State.flen64
  cases s.cfg.ext.d
  · right
    simp only [Bool.false_eq_true, if_false, BitVec.toNat_ofNat]
    omega
  · exact .inl rfl

/-- A load into an f register of a value that fits it. -/
theorem loadsF_of_memRead {value : Nat → Word} (hn : IsSize n)
    (hx : ∀ u w, s.memRead a n = .ok (u, w) → exec i s = .next ((u.setF rd (value w.toNat)).retire (BitVec.ofNat 64 len)))
    (ha : a.toNat = m) (hm : m < 2 ^ s.width) (hfit : ∀ k, s.flen64 = true ∨ (value k).toNat < 2 ^ 32) :
    LoadsF i s len n m rd value := by
  subst ha
  intro u at_ hr
  obtain ⟨hl, w, hw, hb⟩ := State.memRead_of_found hn hm hr
  refine ⟨_, hx u w hw, ?_⟩
  have hd := State.did_putF u rd (value w.toNat) 0 len (by rw [hl]; exact hfit _)
  rw [State.accrue_zero, hl.fromPc len, hb] at hd
  rw [hb]
  exact hd

theorem loadsF_single (h : exec i s = s.loadF32 rd a (BitVec.ofNat 64 len)) (ha : a.toNat = m) (hm : m < 2 ^ s.width) :
    LoadsF i s len 4 m rd s.boxed := by
  refine loadsF_of_memRead (by unfold IsSize; decide) (fun u w hw => ?_) ha hm s.boxed_fits
  have hl : u.cfg = s.cfg := by
    obtain ⟨x, hx, hu⟩ := State.lookedUp_memRead hw
    rw [hu, hx]
  have hbox : u.box (w.setWidth 32) = s.boxed w.toNat := by
    rw [State.box_eq_boxed, BitVec.toNat_setWidth]
    unfold State.boxed
    rw [hl, Nat.mod_mod]
  rw [h, State.loadF32, hw, ← hbox]
  rfl

theorem loadsF_double (hd : s.cfg.ext.d = true) (h : exec i s = s.loadF64 rd a (BitVec.ofNat 64 len)) (ha : a.toNat = m)
    (hm : m < 2 ^ s.width) : LoadsF i s len 8 m rd (fun v => BitVec.ofNat 64 v) := by
  refine loadsF_of_memRead (by unfold IsSize; decide) (fun u w hw => ?_) ha hm fun _ => .inl hd
  rw [h, State.loadF64, hw, BitVec.ofNat_toNat, BitVec.setWidth_eq]
  rfl

/-! ## Stores of a part of a register -/

/-- Only the low `n` bytes are stored. -/
theorem storedAt_congr {at_ : Nat → Nat} {v w n : Nat} (h : v % 256 ^ n = w % 256 ^ n) :
    storedAt at_ v n = storedAt at_ w n := by
  have hbyte (j : Nat) (hj : j < n) : BitVec.ofNat 8 (v / 256 ^ j) = BitVec.ofNat 8 (w / 256 ^ j) := by
    refine BitVec.eq_of_toNat_eq ?_
    have hcut (x : Nat) : x / 256 ^ j % 256 = x % 256 ^ n / 256 ^ j % 256 := by
      obtain ⟨q, rfl⟩ := Nat.exists_eq_add_of_lt hj
      rw [show j + q + 1 = j + (q + 1) by omega, pow_add, Nat.mod_mul_right_div_self,
        Nat.mod_mod_of_dvd _ (dvd_pow_self 256 (Nat.succ_ne_zero q))]
    rw [BitVec.toNat_ofNat, BitVec.toNat_ofNat]
    exact (hcut v).trans ((congrArg (· / 256 ^ j % 256) h).trans (hcut w).symm)
  have key (k : Nat) (hk : k ≤ n) : storedAt at_ v k = storedAt at_ w k := by
    induction k with
    | zero => rfl
    | succ k ih =>
      funext b
      rw [storedAt, storedAt, ih (by omega), hbyte k (by omega)]
  exact key n le_rfl

theorem stores_congr {k' : Nat} (hk : k % 256 ^ n = k' % 256 ^ n) (h : Stores i s len n m k) : Stores i s len n m k' := by
  intro u at_ hf
  have hd := h u at_ hf
  dsimp only at hd ⊢
  rwa [storedAt_congr hk] at hd

end

end Sys2Proof.Machine

namespace Sys2Proof.Proofs

open Sys2Proof.Machine

theorem isSize_one : IsSize 1 := .inl rfl
theorem isSize_two : IsSize 2 := .inr (.inl rfl)
theorem isSize_four : IsSize 4 := .inr (.inr (.inl rfl))
theorem isSize_eight : IsSize 8 := .inr (.inr (.inr rfl))

/-- Settles O18: each is one `loadX`, with its address and extension as numbers. -/
theorem integerLoads : Obligations.IntegerLoads := by
  intro s rd rs1 imm rd' rs1' u5 u6
  have ha := s.eaImm_toNat rs1 imm
  have hlt := s.eaOf_lt
  have hc2 := s.ea_scaled rs1'.reg u5 2 (by decide)
  have hc3 := s.ea_scaled rs1'.reg u5 3 (by decide)
  have hp2 := s.ea_scaled 2 u6 2 (by decide)
  have hp3 := s.ea_scaled 2 u6 3 (by decide)
  have hword (v : Word) (hv : v.toNat < 256 ^ 4) : (sext32 v).toNat % 2 ^ s.width = s.ofW v.toNat :=
    s.signExtend_setWidth_mod (by decide) hv
  have hcut (v : Word) (_ : v.toNat < 256 ^ 8) : (id v).toNat % 2 ^ s.width = v.toNat % 2 ^ s.width := rfl
  exact ⟨loadsX_at isSize_one rfl ha (hlt _ _) fun v hv => s.signExtend_setWidth_mod (k := 8) (by decide) hv,
    loadsX_at isSize_one rfl ha (hlt _ _) fun v hv => s.mod_width_of_lt (n := 8) hv (by decide),
    loadsX_at isSize_two rfl ha (hlt _ _) fun v hv => s.signExtend_setWidth_mod (k := 16) (by decide) hv,
    loadsX_at isSize_two rfl ha (hlt _ _) fun v hv => s.mod_width_of_lt (n := 16) hv (by decide),
    loadsX_at isSize_four rfl ha (hlt _ _) hword,
    loadsX_at isSize_four rfl ha (hlt _ _) fun v hv => s.mod_width_of_lt (n := 32) hv (by decide),
    loadsX_at isSize_eight rfl ha (hlt _ _) hcut,
    loadsX_at isSize_four rfl hc2 (hlt _ _) hword, loadsX_at isSize_eight rfl hc3 (hlt _ _) hcut,
    loadsX_at isSize_four rfl hp2 (hlt _ _) hword, loadsX_at isSize_eight rfl hp3 (hlt _ _) hcut⟩

/-- Settles O19: each is one `storeTo`. -/
theorem integerStores : Obligations.IntegerStores := by
  intro s rs1 rs2 imm rs1' rs2' u5 u6
  have ha := s.eaImm_toNat rs1 imm
  have hlt := s.eaOf_lt
  exact ⟨stores_at isSize_one rfl ha (hlt _ _) rfl, stores_at isSize_two rfl ha (hlt _ _) rfl,
    stores_at isSize_four rfl ha (hlt _ _) rfl, stores_at isSize_eight rfl ha (hlt _ _) rfl,
    stores_at isSize_four rfl (s.ea_scaled rs1'.reg u5 2 (by decide)) (hlt _ _) rfl,
    stores_at isSize_eight rfl (s.ea_scaled rs1'.reg u5 3 (by decide)) (hlt _ _) rfl,
    stores_at isSize_four rfl (s.ea_scaled 2 u6 2 (by decide)) (hlt _ _) rfl,
    stores_at isSize_eight rfl (s.ea_scaled 2 u6 3 (by decide)) (hlt _ _) rfl⟩

/-- The low word of an f register, as a store writes it. -/
theorem stores_low {i : Instr} {s : State} {a : Word} {len m : Nat} {r : Reg}
    (h : exec i s = s.storeTo a 4 ((s.getFRaw32 r).setWidth 64) (BitVec.ofNat 64 len)) (ha : a.toNat = m)
    (hm : m < 2 ^ s.width) : Stores i s len 4 m (s.getF r).toNat := by
  refine stores_congr ?_ (stores_at isSize_four h ha hm rfl)
  rw [BitVec.toNat_setWidth, State.getFRaw32, BitVec.toNat_setWidth]
  omega

/-- Settles O20: loads write a boxed single or a whole double, stores the low bits. -/
theorem floatLoadsStores : Obligations.FloatLoadsStores := by
  intro s r rs1 imm r' rs1' u5 u6
  have ha := s.eaImm_toNat rs1 imm
  have hlt := s.eaOf_lt
  have hc2 := s.ea_scaled rs1'.reg u5 2 (by decide)
  have hc3 := s.ea_scaled rs1'.reg u5 3 (by decide)
  have hp2 := s.ea_scaled 2 u6 2 (by decide)
  have hp3 := s.ea_scaled 2 u6 3 (by decide)
  exact ⟨loadsF_single rfl ha (hlt _ _), loadsF_single rfl hc2 (hlt _ _), loadsF_single rfl hp2 (hlt _ _),
    fun hd => loadsF_double hd rfl ha (hlt _ _), fun hd => loadsF_double hd rfl hc3 (hlt _ _),
    fun hd => loadsF_double hd rfl hp3 (hlt _ _),
    stores_low rfl ha (hlt _ _), stores_low rfl hc2 (hlt _ _), stores_low rfl hp2 (hlt _ _),
    stores_at isSize_eight rfl ha (hlt _ _) rfl, stores_at isSize_eight rfl hc3 (hlt _ _) rfl,
    stores_at isSize_eight rfl hp3 (hlt _ _) rfl⟩

end Sys2Proof.Proofs
end

section
/-!
PROOFS. Atomics in main memory (43_a.md rules R363 to R387) and misaligned ordinary accesses (20_memory.md rules R108,
R110).
-/

namespace Sys2Proof.Machine

theorem State.ux_setX (s : State) (rd r : Reg) (v : Word) :
    (s.setX rd v).ux r = if r ≠ 0 ∧ rd = r then v.toNat % 2 ^ s.width else s.ux r := by
  unfold State.ux
  rw [State.getX_setX]
  split
  · exact Xlen.norm_toNat _ _
  · rfl

/-! ## AMOs -/

/-- What `did_store` asks of the x register written. -/
theorem State.ux_setX_effect {s t : State} {rd : Reg} {v : Word} {k : Nat} (hx : t.x = s.x) (hc : t.cfg = s.cfg)
    (hv : v.toNat % 2 ^ s.width = k) (r : Reg) : (t.setX rd v).ux r =
      if r ≠ 0 ∧ (some (rd, k)).map Prod.fst = some r then ((some (rd, k)).map Prod.snd).getD 0 else s.ux r := by
  have hr : t.ux r = s.ux r := by unfold State.ux; rw [State.getX_congr hx hc]
  rw [State.ux_setX, hr]
  have hw : t.width = s.width := by unfold State.width; rw [hc]
  simp only [Option.map_some, Option.some.injEq, Option.getD_some, hw, hv]

section
variable {i : Instr} {s : State} {rd rs1 rs2 : Reg} {n : Nat} {ext : Word → Word} {extend : Nat → Nat}

theorem swaps_of_amo {op : Word → Word → Word} {new : Nat → Nat} (hn : IsSize n)
    (h : exec i s = s.amo rd rs2 rs1 n op ext)
    (hop : ∀ v : Word, v.toNat < 256 ^ n → (op v (s.getX rs2)).toNat % 256 ^ n = new v.toNat % 256 ^ n)
    (hext : ∀ v : Word, v.toNat < 256 ^ n → (ext v).toNat % 2 ^ s.width = extend v.toNat) :
    Swaps i s n (s.ux rs1) rd new extend := by
  intro u at_ hf
  obtain ⟨p, hp, hl, hdev, haddrs, _, ho⟩ := State.locate_of_found hn (s.ux_lt rs1) hf
  have hold := State.readPlace_toNat hn hdev haddrs ho
  have hlt : (u.readPlace p n).toNat < 256 ^ n := hold ▸ u.bytesAt_lt at_ n
  have hw : u.width = s.width := by unfold State.width; rw [hl]
  have hx := hext _ hlt
  have hst := storedAt_congr (at_ := at_) (hop _ hlt)
  rw [hold] at hx hst
  generalize hv : u.readPlace p n = old at *
  refine ⟨_, ?_, State.did_store (at_ := at_) (n := n) (op old (s.getX rs2)).toNat
    (t := ((u.storeBytes (placed at_ n) (op old (s.getX rs2)).toNat).setX rd (ext old)).retire 4) hst.symm rfl rfl rfl
    (Memory.writeMain_eq _ (haddrs ▸ ho)) rfl rfl rfl ?_ ?_ rfl⟩
  · rw [h, State.amo, hp]
    simp only [State.readDone_eq ho, hv, State.writePlace, hdev, haddrs]
    rfl
  · exact State.ux_setX_effect (t := u.storeBytes (placed at_ n) (op old (s.getX rs2)).toNat) rfl rfl (hw ▸ hx)
  · exact (u.pcPlus_toNat 4).trans (hl.fromPc 4)

/-! ### The operations as numbers -/

theorem amoMin_toNat {k : Nat} (t v : BitVec k) :
    (amoMin t v).toNat = if signed k t.toNat ≤ signed k v.toNat then t.toNat else v.toNat := by
  rw [signed_toNat, signed_toNat]
  unfold amoMin
  rcases lt_trichotomy t.toInt v.toInt with h | h | h
  · rw [if_pos (BitVec.slt_iff_toInt_lt.mpr h), if_pos h.le]
  · rw [BitVec.toInt_inj.mp h, ite_self, ite_self]
  · rw [if_neg (mt BitVec.slt_iff_toInt_lt.mp h.not_gt), if_neg h.not_ge]

theorem amoMax_toNat {k : Nat} (t v : BitVec k) :
    (amoMax t v).toNat = if signed k v.toNat ≤ signed k t.toNat then t.toNat else v.toNat := by
  rw [signed_toNat, signed_toNat]
  unfold amoMax
  rcases lt_trichotomy t.toInt v.toInt with h | h | h
  · rw [if_neg (mt BitVec.slt_iff_toInt_lt.mp h.not_gt), if_neg h.not_ge]
  · rw [BitVec.toInt_inj.mp h, ite_self, ite_self]
  · rw [if_pos (BitVec.slt_iff_toInt_lt.mpr h), if_pos h.le]

theorem amoMinu_toNat {k : Nat} (t v : BitVec k) : (amoMinu t v).toNat = if t.toNat ≤ v.toNat then t.toNat else v.toNat := by
  unfold amoMinu
  rcases lt_trichotomy t.toNat v.toNat with h | h | h
  · rw [if_pos (BitVec.ult_iff_lt.mpr h), if_pos h.le]
  · rw [BitVec.toNat_inj.mp h, ite_self, ite_self]
  · rw [if_neg (mt BitVec.ult_iff_lt.mp h.not_gt), if_neg h.not_ge]

theorem amoMaxu_toNat {k : Nat} (t v : BitVec k) : (amoMaxu t v).toNat = if v.toNat ≤ t.toNat then t.toNat else v.toNat := by
  unfold amoMaxu
  rcases lt_trichotomy t.toNat v.toNat with h | h | h
  · rw [if_neg (mt BitVec.ult_iff_lt.mp h.not_gt), if_neg h.not_ge]
  · rw [BitVec.toNat_inj.mp h, ite_self, ite_self]
  · rw [if_pos (BitVec.ult_iff_lt.mpr h), if_pos h.le]

/-- A word AMO: the operation on the low words. -/
theorem swaps_word {op : BitVec 32 → BitVec 32 → BitVec 32} {new : Nat → Nat}
    (h : exec i s = s.amo rd rs2 rs1 4 (onWords op) sext32)
    (hop : ∀ v : BitVec 32, (op v (s.getW rs2)).toNat % 2 ^ 32 = new v.toNat % 2 ^ 32) :
    Swaps i s 4 (s.ux rs1) rd new s.ofW := by
  refine swaps_of_amo (.inr (.inr (.inl rfl))) h (fun v hv => ?_) fun v hv => s.signExtend_setWidth_mod (by decide) hv
  have hlow := hop (v.setWidth 32)
  rw [BitVec.toNat_setWidth, Nat.mod_eq_of_lt (show v.toNat < 2 ^ 32 from hv)] at hlow
  unfold onWords
  rw [BitVec.toNat_setWidth, Nat.mod_eq_of_lt ((op _ _).isLt.trans (by decide))]
  exact hlow

/-- A doubleword AMO of RV64. -/
theorem swaps_double {op : Word → Word → Word} {new : Nat → Nat} (hx : s.cfg.xlen = .rv64)
    (h : exec i s = s.amo rd rs2 rs1 8 op id)
    (hop : ∀ v : Word, (op v (s.getX rs2)).toNat % 2 ^ 64 = new v.toNat % 2 ^ 64) :
    Swaps i s 8 (s.ux rs1) rd new (fun d => d) := by
  have hw : s.width = 64 := by unfold State.width; rw [hx]; rfl
  refine swaps_of_amo (.inr (.inr (.inr rfl))) h (fun v _ => hop v) fun v _ => ?_
  rw [hw]
  exact Nat.mod_eq_of_lt v.isLt

end

/-! ## Load-reserved and store-conditional -/

section
variable {i : Instr} {s : State} {rd rs1 rs2 : Reg} {n : Nat} {ext : Word → Word} {extend : Nat → Nat}

/-- An atomic access that is found is aligned, and found whole. -/
theorem State.locate_of_found_atomic {u : State} {t : Access} {a : Word} {at_ : Nat → Nat} (ht : t.atomic = true)
    (hn : IsSize n) (ha : a.toNat < 2 ^ s.width) (hf : s.Found t a.toNat n u at_) :
    s.locate t a n = .ok (u, .whole (at_ 0)) ∧ s.LookedUp u ∧ Place.dev u.cfg n (.whole (at_ 0)) = none ∧
      Place.addrs n (.whole (at_ 0)) = placed at_ n ∧ ∀ b ∈ Place.addrs n (.whole (at_ 0)), onDevice u.cfg b = false := by
  have hal : a.toNat % n = 0 := by
    by_contra hal
    have h1 := hf.1
    rw [if_neg hal] at h1
    rw [h1.2.1] at ht
    cases ht
  obtain ⟨p, hp, hl, hdev, haddrs, hwhole, ho⟩ := State.locate_of_found hn ha hf
  obtain rfl := hwhole hal
  exact ⟨hp, hl, hdev, haddrs, ho⟩

/-- Writing an x register and setting the reservation, with the memory left. -/
theorem State.did_reserve {u t : State} {r : Option Reservation} {v : Word} {next k draws : Nat}
    (hv : v.toNat % 2 ^ u.width = k) (hnext : (u.pcPlus 4).toNat = next)
    (ht : t = ({ u with reservation := r, free := u.free + draws }.setX rd v).retire 4) :
    Did u t { Effect.nothing next with x := some (rd, k), reservation := some r, draws := draws } := by
  subst ht
  refine State.did_store (at_ := id) (n := 0) 0 rfl rfl rfl rfl rfl ?_ rfl rfl ?_ hnext rfl
  · exact (ite_self _).symm
  · exact State.ux_setX_effect (t := { u with reservation := r, free := u.free + draws }) rfl rfl hv

theorem reserves_of_loadReserved (hn : IsSize n) (h : exec i s = s.loadReserved rd rs1 n ext)
    (hext : ∀ v : Word, v.toNat < 256 ^ n → (ext v).toNat % 2 ^ s.width = extend v.toNat) :
    Accesses i s .loadReserved n (s.ux rs1) fun u at_ =>
      { Effect.nothing (s.fromPc 4) with
        x := some (rd, extend (u.bytesAt at_ n)), reservation := some (some ⟨at_ 0, n⟩) } := by
  intro u at_ hf
  obtain ⟨hp, hl, hdev, haddrs, ho⟩ := State.locate_of_found_atomic rfl hn (s.ux_lt rs1) hf
  have hold := State.readPlace_toNat hn hdev haddrs ho
  have hw : u.width = s.width := by unfold State.width; rw [hl]
  have hx := hext _ (hold ▸ u.bytesAt_lt at_ n)
  rw [hold, ← hw] at hx
  refine ⟨_, ?_, State.did_reserve (draws := 0) hx ((u.pcPlus_toNat 4).trans (hl.fromPc 4)) rfl⟩
  rw [h, State.loadReserved, hp]
  simp only [State.readDone_eq ho]
  rfl

theorem conditional_of_storeConditional (hn : IsSize n) (h : exec i s = s.storeConditional rd rs2 rs1 n) {u : State}
    {at_ : Nat → Nat} (hf : s.Found .storeConditional (s.ux rs1) n u at_) :
    let code := s.cfg.scFailCode.toNat % 2 ^ s.width
    let succeeds (draws : Nat) : Prop :=
      CompletesIn i s u { Effect.nothing (s.fromPc 4) with
        x := some (rd, 0), stored := storedAt at_ (s.ux rs2) n, reservation := some none, draws := draws }
    let fails (draws : Nat) : Prop :=
      CompletesIn i s u { Effect.nothing (s.fromPc 4) with
        x := some (rd, code), reservation := some none, draws := draws }
    let held : Prop := u.reservation = some ⟨at_ 0, n⟩
    if s.cfg.scSpuriousFail then (held → succeeds 1 ∨ fails 1) ∧ (¬ held → fails 1)
    else (held → succeeds 0) ∧ (¬ held → fails 0) := by
  intro code succeeds fails held
  obtain ⟨hp, hl, hdev, haddrs, ho⟩ := State.locate_of_found_atomic rfl hn (s.ux_lt rs1) hf
  have hcfg : u.cfg = s.cfg := by rw [hl]
  have hnext : (u.pcPlus 4).toNat = s.fromPc 4 := (u.pcPlus_toNat 4).trans (hl.fromPc 4)
  have hexec : exec i s = .next (if held ∧ u.scSpurious = false then
      ({ (u.storeBytes (placed at_ n) (s.getX rs2).toNat).scDrawn with reservation := none }.setX rd 0).retire 4
      else ({ u.scDrawn with reservation := none }.setX rd s.cfg.scFailCode).retire 4) := by
    rw [h, State.storeConditional, hp]
    simp only [State.writePlace, hdev, haddrs]
    by_cases hc : u.reservation = some ⟨at_ 0, n⟩ ∧ u.scSpurious = false
    · rw [if_pos hc, if_pos hc]; rfl
    · rw [if_neg hc, if_neg hc]; rfl
  have hdraws : u.scDrawn = { u with free := u.free + if s.cfg.scSpuriousFail then 1 else 0 } := by
    unfold State.scDrawn
    rw [hcfg]
    split <;> rfl
  have hsucceeds (hh : held ∧ u.scSpurious = false) : succeeds (if s.cfg.scSpuriousFail then 1 else 0) := by
    rw [if_pos hh] at hexec
    refine ⟨_, hexec, State.did_store (s.ux rs2) rfl rfl rfl ?_ (Memory.writeMain_eq _ (haddrs ▸ ho)) rfl rfl rfl ?_
      hnext rfl⟩
    · have := congrArg State.free hdraws
      unfold State.scDrawn at this ⊢
      exact this
    · exact State.ux_setX_effect (v := 0)
        (t := { (u.storeBytes (placed at_ n) (s.getX rs2).toNat).scDrawn with reservation := none }) rfl rfl (Nat.zero_mod _)
  have hfails (hh : ¬ (held ∧ u.scSpurious = false)) : fails (if s.cfg.scSpuriousFail then 1 else 0) := by
    rw [if_neg hh] at hexec
    refine ⟨_, hexec, State.did_reserve ?_ hnext (by rw [hdraws])⟩
    unfold State.width
    rw [hcfg]
    rfl
  cases hsp : s.cfg.scSpuriousFail
  · have hno : u.scSpurious = false := by unfold State.scSpurious; rw [hcfg, hsp]; rfl
    rw [hsp] at hsucceeds hfails
    exact ⟨fun hh => hsucceeds ⟨hh, hno⟩, fun hh => hfails fun hc => hh hc.1⟩
  · rw [hsp] at hsucceeds hfails
    refine ⟨fun hh => ?_, fun hh => hfails fun hc => hh hc.1⟩
    cases hc : u.scSpurious
    · exact .inl (hsucceeds ⟨hh, hc⟩)
    · exact .inr (hfails fun hx => by rw [hc] at hx; cases hx.2)

end

end Sys2Proof.Machine

namespace Sys2Proof.Proofs

open Sys2Proof.Machine

/-- Settles O21: each is one `amo`, whose operation on the low bytes is the stated one. -/
theorem atomicOperations : Obligations.AtomicOperations := by
  intro s rd rs1 rs2 aq rl
  have hb : (s.getW rs2).toNat = s.ux rs2 % 2 ^ 32 := s.getW_toNat rs2
  refine ⟨swaps_word rfl ?wswap, swaps_word rfl ?wadd, swaps_word rfl ?wxor, swaps_word rfl ?wand, swaps_word rfl ?wor,
    swaps_word rfl ?wmin, swaps_word rfl ?wmax, swaps_word rfl ?wminu, swaps_word rfl ?wmaxu,
    fun hx => swaps_double hx (exec_amoswapD rd rs2 rs1 aq rl s) fun _ => rfl, fun hx => swaps_double hx rfl ?dadd,
    fun hx => swaps_double hx rfl ?dxor, fun hx => swaps_double hx rfl ?dand, fun hx => swaps_double hx rfl ?dor,
    fun hx => swaps_double hx rfl ?dmin, fun hx => swaps_double hx rfl ?dmax, fun hx => swaps_double hx rfl ?dminu,
    fun hx => swaps_double hx rfl ?dmaxu⟩
  case wswap => exact fun v => by rw [hb, Nat.mod_mod]
  case wadd => exact fun v => by rw [BitVec.toNat_add, hb, Nat.mod_mod, Nat.add_mod_mod]
  case wxor => exact fun v => by rw [BitVec.toNat_xor, hb, Nat.xor_mod_two_pow, Nat.mod_mod, ← Nat.xor_mod_two_pow]
  case wand => exact fun v => by rw [BitVec.toNat_and, hb, Nat.and_mod_two_pow, Nat.mod_mod, ← Nat.and_mod_two_pow]
  case wor => exact fun v => by rw [BitVec.toNat_or, hb, Nat.or_mod_two_pow, Nat.mod_mod, ← Nat.or_mod_two_pow]
  case wmin => exact fun v => by rw [amoMin_toNat, s.getW_toNat]
  case wmax => exact fun v => by rw [amoMax_toNat, s.getW_toNat]
  case wminu => exact fun v => by rw [amoMinu_toNat, s.getW_toNat]
  case wmaxu => exact fun v => by rw [amoMaxu_toNat, s.getW_toNat]
  case dadd => exact fun v => by rw [BitVec.toNat_add, Nat.mod_mod]; rfl
  case dxor => exact fun v => by rw [BitVec.toNat_xor]; rfl
  case dand => exact fun v => by rw [BitVec.toNat_and]; rfl
  case dor => exact fun v => by rw [BitVec.toNat_or]; rfl
  case dmin => exact fun v => by rw [amoMin_toNat]; rfl
  case dmax => exact fun v => by rw [amoMax_toNat]; rfl
  case dminu => exact fun v => by rw [amoMinu_toNat]; rfl
  case dmaxu => exact fun v => by rw [amoMaxu_toNat]; rfl

/-- Settles O22: `lr` and `sc` at the place that translation finds. -/
theorem loadReservedStoreConditional : Obligations.LoadReservedStoreConditional := by
  intro s rd rs1 rs2 aq rl
  refine ⟨reserves_of_loadReserved isSize_four rfl fun v hv => s.signExtend_setWidth_mod (by decide) hv,
    fun hx => reserves_of_loadReserved (extend := fun v => v) isSize_eight rfl fun v _ => ?_,
    fun u at_ hf => conditional_of_storeConditional isSize_four rfl hf,
    fun _ u at_ hf => conditional_of_storeConditional isSize_eight rfl hf⟩
  have hw : s.width = 64 := by unfold State.width; rw [hx]; rfl
  rw [hw]
  exact Nat.mod_eq_of_lt v.isLt

end Sys2Proof.Proofs
end

section
/-!
PROOFS. Accesses that raise: misaligned, not translated, not permitted (20_memory.md rules R108, R110, R113, R126, R130,
R135). Every load, store and atomic raises the error of its lookup, so each statement is about `State.locate`.
-/

namespace Sys2Proof.Machine

/-! ## The errors of a translation -/

section
variable {s : State} {t : Access} {p : Priv} {va : Word} {f : Trap}

theorem State.walk_error {i a : Nat} (h : s.walk t va i a = .error f) : f = ⟨t.pageFault, va⟩ ∨ f = ⟨t.accessFault, va⟩ := by
  induction i generalizing a with
  | zero =>
    unfold State.walk at h
    simp only at h
    split at h
    · cases h; exact .inr rfl
    split at h
    · cases h; exact .inl rfl
    split at h <;> cases h
    exact .inl rfl
  | succ i ih =>
    unfold State.walk at h
    simp only at h
    split at h
    · cases h; exact .inr rfl
    split at h
    · cases h; exact .inl rfl
    split at h
    · cases h
    · exact ih h

/-- An error of a translation is the page fault or the access fault of the access, with the virtual address. -/
theorem State.translate_error (h : s.translate p t va = .error f) :
    f = ⟨t.pageFault, va⟩ ∨ f = ⟨t.accessFault, va⟩ := by
  unfold State.translate at h
  split at h
  · cases h
  split at h
  · cases h; exact .inl rfl
  split at h
  · split at h <;> cases h
    exact .inl rfl
  split at h
  · next hw => cases h; exact State.walk_error hw
  next leaf _ =>
    obtain ⟨pte, i, at_⟩ := leaf
    simp only [State.useLeaf] at h
    split at h
    · cases h; exact .inl rfl
    split at h
    · cases h
    split at h
    · cases h; exact .inl rfl
    split at h <;> cases h
    exact .inr rfl

end

/-! ## The errors of a lookup -/

section
variable {s : State} {t : Access} {a : Word} {n : Nat} {e : Trap}

theorem State.locate_misaligned (ha : a.toNat % n ≠ 0) (h : t.atomic = true ∨ s.cfg.misalignedOk = false) :
    s.locate t a n = .error ⟨t.misaligned, a⟩ := by
  unfold State.locate
  rw [if_neg ha, if_pos]
  rcases h with h | h <;> simp [h]

theorem State.locate_of_locateOne (ha : a.toNat % n = 0) (h : s.locateOne t a n = .error e) :
    s.locate t a n = .error e := by
  unfold State.locate
  rw [if_pos ha, h]

theorem State.locate_of_locateBytes (ha : a.toNat % n ≠ 0) (ht : t.atomic = false) (hm : s.cfg.misalignedOk = true)
    (h : s.locateBytes t a n = .error e) : s.locate t a n = .error e := by
  unfold State.locate
  rw [if_neg ha, if_neg (by simp [ht, hm]), h]

/-- The first byte that fails ends the lookup. -/
theorem State.locateBytes_of_byte {u : State} {at_ : Nat → Nat} {b k : Nat} (hb : b < 2 ^ s.width) (hk : k < n)
    (hf : s.FoundBytes t b at_ k u) (h : u.locateOne t (BitVec.ofNat 64 (s.byteAddr b k)) 1 = .error e) :
    s.locateBytes t (BitVec.ofNat 64 b) n = .error e := by
  obtain ⟨j, rfl⟩ := Nat.exists_eq_add_of_lt hk
  induction j with
  | zero => rw [State.locateBytes_succ t b _ hb, State.locateBytes_of_found hb hf]; simp only [h]
  | succ j ih => rw [State.locateBytes_succ t b _ hb, show k + (j + 1) = k + j + 1 from rfl, ih (by omega)]

end

/-! ## Instructions that access memory -/

/-- The instruction looks up `n` bytes at `a` for an access of this kind, and raises what the lookup raises. -/
def Attempts (i : Instr) (s : State) (t : Access) (n a : Nat) : Prop :=
  ∃ w : Word, w.toNat = a ∧ a < 2 ^ s.width ∧ ∀ e, s.locate t w n = .error e → exec i s = .next (s.raise e)

section
variable {i : Instr} {s : State} {t : Access} {rd rs1 rs2 : Reg} {a v len : Word} {n m : Nat} {ext : Word → Word}

theorem attempts_loadX (h : exec i s = s.loadX rd a n ext len) (ha : a.toNat = m) (hm : m < 2 ^ s.width) :
    Attempts i s .load n m :=
  ⟨a, ha, hm, fun e he => by rw [h, State.loadX, State.memRead, he]; rfl⟩

theorem attempts_loadF32 (h : exec i s = s.loadF32 rd a len) (ha : a.toNat = m) (hm : m < 2 ^ s.width) :
    Attempts i s .load 4 m :=
  ⟨a, ha, hm, fun e he => by rw [h, State.loadF32, State.memRead, he]; rfl⟩

theorem attempts_loadF64 (h : exec i s = s.loadF64 rd a len) (ha : a.toNat = m) (hm : m < 2 ^ s.width) :
    Attempts i s .load 8 m :=
  ⟨a, ha, hm, fun e he => by rw [h, State.loadF64, State.memRead, he]; rfl⟩

theorem attempts_storeTo (h : exec i s = s.storeTo a n v len) (ha : a.toNat = m) (hm : m < 2 ^ s.width) :
    Attempts i s .store n m :=
  ⟨a, ha, hm, fun e he => by rw [h, State.storeTo, State.memWrite, he]; rfl⟩

theorem attempts_loadReserved (h : exec i s = s.loadReserved rd rs1 n ext) : Attempts i s .loadReserved n (s.ux rs1) :=
  ⟨_, rfl, s.ux_lt rs1, fun e he => by rw [h, State.loadReserved, he]; rfl⟩

theorem attempts_storeConditional (h : exec i s = s.storeConditional rd rs2 rs1 n) :
    Attempts i s .storeConditional n (s.ux rs1) :=
  ⟨_, rfl, s.ux_lt rs1, fun e he => by rw [h, State.storeConditional, he]; rfl⟩

theorem attempts_amo {op : Word → Word → Word} (h : exec i s = s.amo rd rs2 rs1 n op ext) :
    Attempts i s .amo n (s.ux rs1) :=
  ⟨_, rfl, s.ux_lt rs1, fun e he => by rw [h, State.amo, he]; rfl⟩

/-- A misaligned access where those are not supported. -/
theorem Attempts.misaligned (h : Attempts i s t n m) (hm : s.cfg.misalignedOk = false) (ha : m % n ≠ 0) :
    Raises i s t.misaligned.code m := by
  obtain ⟨a, rfl, hlt, hx⟩ := h
  exact raises_of_raise (e := ⟨t.misaligned, a⟩) (hx _ (State.locate_misaligned ha (.inr hm))) hlt

/-- The three ways in which looking up `m` bytes at virtual address `b` in the state `u` can fail, and what the
instruction raises then. -/
def StopsAt (i : Instr) (s : State) (t : Access) (u : State) (b m : Nat) : Prop :=
  (∀ v, u.translate s.priv t (BitVec.ofNat 64 b) = .error ⟨t.pageFault, v⟩ → Raises i s t.pageFault.code b) ∧
  (∀ v, u.translate s.priv t (BitVec.ofNat 64 b) = .error ⟨t.accessFault, v⟩ → Raises i s t.accessFault.code b) ∧
  (∀ w pa, u.translate s.priv t (BitVec.ofNat 64 b) = .ok (w, pa) → w.physOk pa m t s.priv = false →
    Raises i s t.accessFault.code b)

/-- An instruction that raises what the lookup of one piece raises. -/
theorem stopsAt_of_locateOne {u : State} {b k : Nat} (hp : u.priv = s.priv) (hb : b < 2 ^ s.width)
    (h : ∀ e, u.locateOne t (BitVec.ofNat 64 b) k = .error e → exec i s = .next (s.raise e)) : StopsAt i s t u b k := by
  have hb64 : b < 2 ^ 64 := hb.trans_le (Nat.pow_le_pow_right (by decide) s.width_le)
  have hword : (BitVec.ofNat 64 b).toNat = b := by rw [BitVec.toNat_ofNat, Nat.mod_eq_of_lt hb64]
  have hraises (x : Exc) (hx : u.locateOne t (BitVec.ofNat 64 b) k = .error ⟨x, BitVec.ofNat 64 b⟩) :
      Raises i s x.code b := by
    have := raises_of_raise (h _ hx) (by simp only [hword]; exact hb)
    rwa [hword] at this
  have herror (x : Exc) (v : Word) (hx : u.translate s.priv t (BitVec.ofNat 64 b) = .error ⟨x, v⟩) : Raises i s x.code b := by
    refine hraises x ?_
    unfold State.locateOne
    rw [hp, hx]
    rcases State.translate_error hx with he | he <;> cases he <;> rfl
  refine ⟨fun v => herror _ v, fun v => herror _ v, fun w pa hw hno => hraises _ ?_⟩
  unfold State.locateOne
  rw [hp, hw]
  simp only [hno]
  rfl

/-- Where an access fails: its one translation and check where it is aligned, else those of a byte after others that were
found. -/
theorem Attempts.stops (h : Attempts i s t n m) :
    (m % n = 0 → StopsAt i s t s m n) ∧
    (m % n ≠ 0 → t.atomic = false → s.cfg.misalignedOk = true →
      ∀ k u at_, k < n → s.FoundBytes t m at_ k u → StopsAt i s t u (s.byteAddr m k) 1) := by
  obtain ⟨a, rfl, hlt, hx⟩ := h
  have hword : BitVec.ofNat 64 a.toNat = a := by simp
  refine ⟨fun ha => stopsAt_of_locateOne rfl hlt fun e he => hx e ?_, fun ha ht hm k u at_ hk hf =>
    stopsAt_of_locateOne ?_ (Nat.mod_lt _ (Nat.two_pow_pos _)) fun e he => hx e ?_⟩
  · rw [hword] at he
    exact State.locate_of_locateOne ha he
  · rw [State.lookedUp_locateBytes (State.locateBytes_of_found hlt hf)]
  · have hb := State.locateBytes_of_byte hlt hk hf he
    rw [hword] at hb
    exact State.locate_of_locateBytes ha ht hm hb

end

end Sys2Proof.Machine

namespace Sys2Proof.Proofs

open Sys2Proof.Machine

/-! ## What each instruction attempts -/

section
variable (s : State) (r rs1 rs2 : Reg) (imm : BitVec 12) (r' rs1' : CReg) (u5 : BitVec 5) (u6 : BitVec 6) (aq rl : Bool)

theorem attempts_loads : 
    (∀ i ∈ [Instr.lb r rs1 imm, .lbu r rs1 imm], Attempts i s .load 1 (s.eaOf rs1 imm.toInt)) ∧
    (∀ i ∈ [Instr.lh r rs1 imm, .lhu r rs1 imm], Attempts i s .load 2 (s.eaOf rs1 imm.toInt)) ∧
    (∀ i ∈ [Instr.lw r rs1 imm, .lwu r rs1 imm, .flw r rs1 imm], Attempts i s .load 4 (s.eaOf rs1 imm.toInt)) ∧
    (∀ i ∈ [Instr.ld r rs1 imm, .fld r rs1 imm], Attempts i s .load 8 (s.eaOf rs1 imm.toInt)) := by
  have ha := s.eaImm_toNat rs1 imm
  have hlt := s.eaOf_lt rs1 imm.toInt
  simp only [List.forall_mem_cons]
  exact ⟨⟨attempts_loadX rfl ha hlt, attempts_loadX rfl ha hlt, List.forall_mem_nil _⟩,
    ⟨attempts_loadX rfl ha hlt, attempts_loadX rfl ha hlt, List.forall_mem_nil _⟩,
    ⟨attempts_loadX rfl ha hlt, attempts_loadX rfl ha hlt, attempts_loadF32 rfl ha hlt, List.forall_mem_nil _⟩,
    ⟨attempts_loadX rfl ha hlt, attempts_loadF64 rfl ha hlt, List.forall_mem_nil _⟩⟩

theorem attempts_stores :
    Attempts (.sb r rs1 imm) s .store 1 (s.eaOf rs1 imm.toInt) ∧
    Attempts (.sh r rs1 imm) s .store 2 (s.eaOf rs1 imm.toInt) ∧
    (∀ i ∈ [Instr.sw r rs1 imm, .fsw r rs1 imm], Attempts i s .store 4 (s.eaOf rs1 imm.toInt)) ∧
    (∀ i ∈ [Instr.sd r rs1 imm, .fsd r rs1 imm], Attempts i s .store 8 (s.eaOf rs1 imm.toInt)) := by
  have ha := s.eaImm_toNat rs1 imm
  have hlt := s.eaOf_lt rs1 imm.toInt
  simp only [List.forall_mem_cons]
  exact ⟨attempts_storeTo rfl ha hlt, attempts_storeTo rfl ha hlt,
    ⟨attempts_storeTo rfl ha hlt, attempts_storeTo rfl ha hlt, List.forall_mem_nil _⟩,
    ⟨attempts_storeTo rfl ha hlt, attempts_storeTo rfl ha hlt, List.forall_mem_nil _⟩⟩

theorem attempts_compressed :
    (∀ i ∈ [Instr.cLw r' rs1' u5, .cFlw r' rs1' u5], Attempts i s .load 4 (s.eaOf rs1'.reg (u5.toNat * (4 : Nat)))) ∧
    (∀ i ∈ [Instr.cLd r' rs1' u5, .cFld r' rs1' u5], Attempts i s .load 8 (s.eaOf rs1'.reg (u5.toNat * (8 : Nat)))) ∧
    (∀ i ∈ [Instr.cSw r' rs1' u5, .cFsw r' rs1' u5], Attempts i s .store 4 (s.eaOf rs1'.reg (u5.toNat * (4 : Nat)))) ∧
    (∀ i ∈ [Instr.cSd r' rs1' u5, .cFsd r' rs1' u5], Attempts i s .store 8 (s.eaOf rs1'.reg (u5.toNat * (8 : Nat)))) := by
  have h2 := s.ea_scaled rs1'.reg u5 2 (by decide)
  have h3 := s.ea_scaled rs1'.reg u5 3 (by decide)
  have hlt := s.eaOf_lt rs1'.reg
  simp only [List.forall_mem_cons]
  exact ⟨⟨attempts_loadX rfl h2 (hlt _), attempts_loadF32 rfl h2 (hlt _), List.forall_mem_nil _⟩,
    ⟨attempts_loadX rfl h3 (hlt _), attempts_loadF64 rfl h3 (hlt _), List.forall_mem_nil _⟩,
    ⟨attempts_storeTo rfl h2 (hlt _), attempts_storeTo rfl h2 (hlt _), List.forall_mem_nil _⟩,
    ⟨attempts_storeTo rfl h3 (hlt _), attempts_storeTo rfl h3 (hlt _), List.forall_mem_nil _⟩⟩

theorem attempts_compressed_sp :
    (∀ i ∈ [Instr.cLwsp r u6, .cFlwsp r u6], Attempts i s .load 4 (s.eaOf 2 (u6.toNat * (4 : Nat)))) ∧
    (∀ i ∈ [Instr.cLdsp r u6, .cFldsp r u6], Attempts i s .load 8 (s.eaOf 2 (u6.toNat * (8 : Nat)))) ∧
    (∀ i ∈ [Instr.cSwsp r u6, .cFswsp r u6], Attempts i s .store 4 (s.eaOf 2 (u6.toNat * (4 : Nat)))) ∧
    (∀ i ∈ [Instr.cSdsp r u6, .cFsdsp r u6], Attempts i s .store 8 (s.eaOf 2 (u6.toNat * (8 : Nat)))) := by
  have h2 := s.ea_scaled 2 u6 2 (by decide)
  have h3 := s.ea_scaled 2 u6 3 (by decide)
  have hlt := s.eaOf_lt 2
  simp only [List.forall_mem_cons]
  exact ⟨⟨attempts_loadX rfl h2 (hlt _), attempts_loadF32 rfl h2 (hlt _), List.forall_mem_nil _⟩,
    ⟨attempts_loadX rfl h3 (hlt _), attempts_loadF64 rfl h3 (hlt _), List.forall_mem_nil _⟩,
    ⟨attempts_storeTo rfl h2 (hlt _), attempts_storeTo rfl h2 (hlt _), List.forall_mem_nil _⟩,
    ⟨attempts_storeTo rfl h3 (hlt _), attempts_storeTo rfl h3 (hlt _), List.forall_mem_nil _⟩⟩

theorem attempts_amos :
    (∀ i ∈ [Instr.amoswapW r rs2 rs1 aq rl, .amoaddW r rs2 rs1 aq rl, .amoxorW r rs2 rs1 aq rl, .amoandW r rs2 rs1 aq rl,
            .amoorW r rs2 rs1 aq rl, .amominW r rs2 rs1 aq rl, .amomaxW r rs2 rs1 aq rl, .amominuW r rs2 rs1 aq rl,
            .amomaxuW r rs2 rs1 aq rl], Attempts i s .amo 4 (s.ux rs1)) ∧
    (∀ i ∈ [Instr.amoswapD r rs2 rs1 aq rl, .amoaddD r rs2 rs1 aq rl, .amoxorD r rs2 rs1 aq rl, .amoandD r rs2 rs1 aq rl,
            .amoorD r rs2 rs1 aq rl, .amominD r rs2 rs1 aq rl, .amomaxD r rs2 rs1 aq rl, .amominuD r rs2 rs1 aq rl,
            .amomaxuD r rs2 rs1 aq rl], Attempts i s .amo 8 (s.ux rs1)) := by
  simp only [List.forall_mem_cons]
  exact ⟨⟨attempts_amo rfl, attempts_amo rfl, attempts_amo rfl, attempts_amo rfl, attempts_amo rfl, attempts_amo rfl,
      attempts_amo rfl, attempts_amo rfl, attempts_amo rfl, List.forall_mem_nil _⟩,
    ⟨attempts_amo (exec_amoswapD r rs2 rs1 aq rl s), attempts_amo rfl, attempts_amo rfl, attempts_amo rfl,
      attempts_amo rfl, attempts_amo rfl, attempts_amo rfl, attempts_amo rfl, attempts_amo rfl, List.forall_mem_nil _⟩⟩

end

/-- Settles O24: the alignment test of the lookup comes first. -/
theorem misalignedAccessesRaise : Obligations.MisalignedAccessesRaise := by
  intro s r rs1 imm r' rs1' u5 u6
  dsimp only
  intro hm
  obtain ⟨_, hl2, hl4, hl8⟩ := attempts_loads s r rs1 imm
  obtain ⟨_, hs2, hs4, hs8⟩ := attempts_stores s r rs1 imm
  obtain ⟨hcl4, hcl8, hcs4, hcs8⟩ := attempts_compressed s r' rs1' u5
  obtain ⟨hpl4, hpl8, hps4, hps8⟩ := attempts_compressed_sp s r u6
  exact ⟨fun i hi => (hl2 i hi).misaligned hm, fun i hi => (List.mem_singleton.mp hi ▸ hs2).misaligned hm,
    fun i hi => (hl4 i hi).misaligned hm, fun i hi => (hs4 i hi).misaligned hm, fun i hi => (hl8 i hi).misaligned hm,
    fun i hi => (hs8 i hi).misaligned hm, fun i hi => (hcl4 i hi).misaligned hm, fun i hi => (hcs4 i hi).misaligned hm,
    fun i hi => (hcl8 i hi).misaligned hm, fun i hi => (hcs8 i hi).misaligned hm,
    fun i hi => (hpl4 i hi).misaligned hm, fun i hi => (hps4 i hi).misaligned hm,
    fun i hi => (hpl8 i hi).misaligned hm, fun i hi => (hps8 i hi).misaligned hm⟩

/-- Settles O25: each instruction raises what its lookup raises, where it stops. -/
theorem accessFaultsRaise : Obligations.AccessFaultsRaise := by
  intro s r rs1 rs2 imm r' rs1' u5 u6 aq rl
  obtain ⟨hl1, hl2, hl4, hl8⟩ := attempts_loads s r rs1 imm
  obtain ⟨hs1, hs2, hs4, hs8⟩ := attempts_stores s r rs1 imm
  obtain ⟨hcl4, hcl8, hcs4, hcs8⟩ := attempts_compressed s r' rs1' u5
  obtain ⟨hpl4, hpl8, hps4, hps8⟩ := attempts_compressed_sp s r u6
  obtain ⟨ha4, ha8⟩ := attempts_amos s r rs1 rs2 aq rl
  exact ⟨fun i hi => (hl1 i hi).stops, fun i hi => (hl2 i hi).stops, fun i hi => (hl4 i hi).stops,
    fun i hi => (hl8 i hi).stops, hs1.stops, hs2.stops, fun i hi => (hs4 i hi).stops, fun i hi => (hs8 i hi).stops,
    fun i hi => (hcl4 i hi).stops, fun i hi => (hcl8 i hi).stops, fun i hi => (hcs4 i hi).stops,
    fun i hi => (hcs8 i hi).stops, fun i hi => (hpl4 i hi).stops, fun i hi => (hpl8 i hi).stops,
    fun i hi => (hps4 i hi).stops, fun i hi => (hps8 i hi).stops,
    (attempts_loadReserved rfl).stops, (attempts_loadReserved rfl).stops, (attempts_storeConditional rfl).stops,
    (attempts_storeConditional rfl).stops, fun i hi => (ha4 i hi).stops, fun i hi => (ha8 i hi).stops⟩

end Sys2Proof.Proofs
end

section
/-!
PROOFS. Fetches and fences (20_memory.md rules R103, R111, R130, R141, R147; 40_rv32i.md rules R276, R277; 47_privileged.md
rule R624).
-/

namespace Sys2Proof.Machine

/-! ## One parcel -/

section
variable {s u w : State} {a : Word} {pa pb : Nat} {e : Trap} {lo hi : BitVec 16}

theorem fetchParcel_of_error (h : s.translate s.priv .fetch a = .error e) : s.fetchParcel a = .error e := by
  unfold State.fetchParcel
  rw [h]

theorem fetchParcel_of_denied (h : s.translate s.priv .fetch a = .ok (u, pa)) (hno : u.physOk pa 2 .fetch s.priv = false) :
    s.fetchParcel a = .error ⟨.instrAccessFault, a⟩ := by
  unfold State.fetchParcel
  rw [h]
  simp only [hno]
  rfl

theorem fetchParcel_of_ok (h : s.translate s.priv .fetch a = .ok (u, pa)) (hok : u.physOk pa 2 .fetch s.priv = true) :
    s.fetchParcel a = .ok (u, parcelOf (u.fetchByte pa) (u.fetchByte (pa + 1))) := by
  unfold State.fetchParcel
  rw [h]
  simp only [hok, if_true]

/-! ## The instruction -/

theorem parcel_long_iff (p : BitVec 16) : p.extractLsb' 0 2 = 0b11#2 ↔ p.toNat % 4 = 3 := by
  rw [← BitVec.toNat_inj, BitVec.extractLsb'_toNat]
  simp

theorem fetch_of_error (h : s.fetchParcel s.getPc = .error e) : s.fetch = .error e := by
  unfold State.fetch
  rw [h]

theorem fetch_of_short (h : s.fetchParcel s.getPc = .ok (u, lo)) (hlo : lo.toNat % 4 ≠ 3) : s.fetch = .ok (u, .short lo) := by
  unfold State.fetch
  rw [h]
  simp only [if_neg (mt (parcel_long_iff lo).mp hlo)]

theorem fetch_of_second_error (h : s.fetchParcel s.getPc = .ok (u, lo)) (hlo : lo.toNat % 4 = 3)
    (h2 : u.fetchParcel (s.pcPlus 2) = .error e) : s.fetch = .error e := by
  unfold State.fetch
  rw [h]
  simp only [if_pos ((parcel_long_iff lo).mpr hlo), h2]

theorem fetch_of_long (h : s.fetchParcel s.getPc = .ok (u, lo)) (hlo : lo.toNat % 4 = 3)
    (h2 : u.fetchParcel (s.pcPlus 2) = .ok (w, hi)) : s.fetch = .ok (w, .long (hi ++ lo)) := by
  unfold State.fetch
  rw [h]
  simp only [if_pos ((parcel_long_iff lo).mpr hlo), h2]

theorem State.getPc_eq (s : State) : s.getPc = BitVec.ofNat 64 s.upc := by
  rw [← s.getPc_toNat, BitVec.ofNat_toNat, BitVec.setWidth_eq]

theorem State.pcPlus_eq (s : State) (n : Nat) : s.pcPlus (BitVec.ofNat 64 n) = BitVec.ofNat 64 (s.fromPc n) := by
  rw [← s.pcPlus_toNat, BitVec.ofNat_toNat, BitVec.setWidth_eq]

theorem State.ofNat_toNat_of_width (s : State) {a : Nat} (ha : a < 2 ^ s.width) : (BitVec.ofNat 64 a).toNat = a := by
  rw [BitVec.toNat_ofNat, Nat.mod_eq_of_lt (ha.trans_le (Nat.pow_le_pow_right (by decide) s.width_le))]

/-- With no stale byte held, a fetch sees memory. -/
theorem State.fetchByte_of_fresh (h : s.staleFetch = []) (b : Nat) : s.fetchByte b = s.mem.read b := by
  unfold State.fetchByte
  rw [h]
  rfl

/-- An untranslated parcel, with no stale byte held. -/
theorem fetchParcel_untranslated {n : Nat} (hu : s.Untranslated) (hs : s.staleFetch = []) (hn : n < 2 ^ s.width)
    (hok : s.physOk n 2 .fetch s.priv = true) :
    s.fetchParcel (BitVec.ofNat 64 n) = .ok (s, parcelOf (s.mem.read n) (s.mem.read (n + 1))) := by
  have ht := State.translate_untranslated hu .fetch (BitVec.ofNat 64 n)
  rw [s.ofNat_toNat_of_width hn] at ht
  rw [fetchParcel_of_ok ht hok, State.fetchByte_of_fresh hs, State.fetchByte_of_fresh hs]

end

/-! ## Fences -/

/-- What `sfence.vma` selects: the entry's page holds the address, and the address space is that of the registers. -/
theorem State.fenced_iff (s : State) (rs1 rs2 : Reg) (e : TlbEntry) : s.fenced rs1 rs2 e = true ↔
    (rs1 = 0 ∨ s.ux rs1 / pageBytes s.cfg.xlen e.level = e.page.toNat / pageBytes s.cfg.xlen e.level) ∧
    (rs2 = 0 ∨ (e.asid = s.ux rs2 ∧ pteG e.pte = false)) := by
  simp only [State.fenced, State.ux, Bool.and_eq_true, Bool.or_eq_true, beq_iff_eq, decide_eq_true_eq, Bool.not_eq_true']

end Sys2Proof.Machine

namespace Sys2Proof.Proofs

open Sys2Proof.Machine

/-- Settles O7: the two parcels, each translated, checked and read. -/
theorem fetchReadsParcels : Obligations.FetchReadsParcels := by
  intro s _
  dsimp only
  have hpc := s.getPc_eq
  have hpc2 : s.pcPlus 2 = BitVec.ofNat 64 (s.fromPc 2) := s.pcPlus_eq 2
  rw [← hpc2, ← hpc]
  refine ⟨fun e he => fetch_of_error (fetchParcel_of_error he), fun u pa hu => ⟨fun hno => ?_, fun hok => ?_⟩,
    fun hun hst hok => ?_⟩
  · exact fetch_of_error (fetchParcel_of_denied hu hno)
  · have hfirst := fetchParcel_of_ok hu hok
    have hp : u.priv = s.priv := (State.lookedUp_translate hu).priv
    refine ⟨fun hlo => fetch_of_short hfirst hlo, fun hlo => ⟨fun e he => ?_, fun w pb hw => ⟨fun hno => ?_, fun hok2 => ?_⟩⟩⟩
    · exact fetch_of_second_error hfirst hlo (fetchParcel_of_error (hp.symm ▸ he))
    · exact fetch_of_second_error hfirst hlo (fetchParcel_of_denied (hp.symm ▸ hw) (hp.symm ▸ hno))
    · exact fetch_of_long hfirst hlo (fetchParcel_of_ok (hp.symm ▸ hw) (hp.symm ▸ hok2))
  · have hfirst := fetchParcel_untranslated (n := s.upc) hun hst (Nat.mod_lt _ (Nat.two_pow_pos _)) hok
    rw [← hpc] at hfirst
    refine ⟨fun hlo => fetch_of_short hfirst hlo, fun hlo => ⟨fun hok2 => ?_, fun hno => ?_⟩⟩
    · have hsecond := fetchParcel_untranslated (n := s.fromPc 2) hun hst (wrap_lt _ _) hok2
      rw [← hpc2] at hsecond
      exact fetch_of_long hfirst hlo hsecond
    · have ht := State.translate_untranslated hun .fetch (s.pcPlus 2)
      rw [show (s.pcPlus 2).toNat = s.fromPc 2 from s.pcPlus_toNat 2] at ht
      exact fetch_of_second_error hfirst hlo (fetchParcel_of_denied ht hno)

/-- Settles O29: each fence is one update of the stale view or the cached translations. -/
theorem fences : Obligations.Fences := by
  intro s rs1 rs2 pred succ
  refine ⟨completes_of_retire rfl, ⟨_, rfl, fun a => rfl, s.pcPlus_toNat 4, rfl⟩, ?_⟩
  split
  · next h =>
    refine ⟨_, if_pos h, s.pcPlus_toNat 4, rfl, fun e => ?_⟩
    rw [← s.fenced_iff, Bool.not_eq_true, ← Bool.not_eq_true']
    exact List.mem_filter
  · next h => exact isIllegal_of_illegal (if_neg h)

end Sys2Proof.Proofs
end

section
/-!
PROOFS. Translation by a page-table walk (20_memory.md rules R127, R130 to R138): the numbers of Sv32 and Sv39, the fields
of an entry, the way down through pointers, and what a leaf gives.
-/

namespace Sys2Proof.Machine

/-! ## The numbers of the two formats -/

theorem pteSize_eq (x : Xlen) : pteSize x = if x = .rv32 then 4 else 8 := by cases x <;> rfl

theorem vpnBits_eq (x : Xlen) : vpnBits x = if x = .rv32 then 10 else 9 := by cases x <;> rfl

theorem pageBytes_eq (x : Xlen) (i : Nat) : pageBytes x i = 2 ^ (12 + vpnBits x * i) := rfl

theorem topLevel_eq (x : Xlen) : topLevel x = if x = .rv32 then 1 else 2 := by cases x <;> rfl

theorem ptePpn_eq (x : Xlen) (pte : Word) :
    ptePpn x pte = pte.toNat / 2 ^ 10 % 2 ^ (if x = .rv32 then 22 else 44) := by
  cases x <;> simp only [ptePpn, BitVec.extractLsb'_toNat, Nat.shiftRight_eq_div_pow] <;> rfl

theorem satpPpn_eq (x : Xlen) (v : Word) : satpPpn x v = v.toNat % 2 ^ (if x = .rv32 then 22 else 44) := by
  cases x <;> simp only [satpPpn, BitVec.extractLsb'_toNat, Nat.shiftRight_zero] <;> rfl

theorem canonical_iff (x : Xlen) (va : Word) :
    canonical x va = true ↔ x = .rv32 ∨ va.toNat < 2 ^ 38 ∨ 2 ^ 64 - 2 ^ 38 ≤ va.toNat := by
  cases x
  · simp [canonical]
  · have hva := va.isLt
    simp only [canonical, beq_iff_eq, ← BitVec.toInt_inj, BitVec.toInt_signExtend_of_le (show 39 ≤ 64 by decide),
      BitVec.toInt_eq_toNat_cond, BitVec.extractLsb'_toNat, Nat.shiftRight_zero, reduceCtorEq, false_or]
    split <;> split <;> omega

/-- Paging is on when the mode field is that of the format. -/
theorem State.translated_of_mode {s : State} {p : Priv} (hs : s.cfg.modes.hasS = true) (hp : p ≠ .m)
    (hmode : s.satp.toNat / 2 ^ (if s.cfg.xlen = .rv32 then 31 else 60) % 16 = if s.cfg.xlen = .rv32 then 1 else 8) :
    s.translated p = true := by
  have hne : satpMode s.cfg.xlen s.satp ≠ 0 := by
    cases hx : s.cfg.xlen <;> rw [hx] at hmode <;>
      simp only [satpMode, BitVec.extractLsb'_toNat, Nat.shiftRight_eq_div_pow] <;> simp at hmode <;> omega
  unfold State.translated
  simp [hs, hp, hne]

/-- An entry that is a pointer: valid, and not a leaf. -/
theorem pte_pointer {pte : Word} (h : pte.toNat % 16 = 1) :
    pteV pte = true ∧ pteR pte = false ∧ pteW pte = false ∧ pteX pte = false := by
  simp only [pteV, pteR, pteW, pteX, BitVec.getLsbD, Nat.testBit_eq_decide_div_mod_eq, decide_eq_true_eq,
    decide_eq_false_iff_not]
  omega

/-! ## Entries of the table -/

section
variable {s : State} {t : Access} {p : Priv} {va e : Word} {i a : Nat}

theorem State.physOk_and_devices (s : State) (t : Access) (a n : Nat) :
    (s.pmpOk a n t .s && !(addrsFrom a n).any (deviceAt s.cfg) && mapOk s.cfg t a n) = true ↔
      s.physOk a n t .s = true ∧ ∀ k, k < n → deviceAt s.cfg (a + k) = false := by
  have hany : (addrsFrom a n).any (deviceAt s.cfg) = false ↔ ∀ k, k < n → deviceAt s.cfg (a + k) = false := by
    rw [← Bool.not_eq_true, any_addrsFrom]
    simp
  simp only [State.physOk, Bool.and_eq_true, Bool.not_eq_true', hany]
  tauto

theorem State.pteRead_eq (s : State) (a : Nat) : s.pteRead a =
    if s.physOk a (pteSize s.cfg.xlen) .load .s = true ∧ ∀ k, k < pteSize s.cfg.xlen → deviceAt s.cfg (a + k) = false then
      some (BitVec.ofNat 64 (s.mem.readAt (addrsFrom a (pteSize s.cfg.xlen)))) else none := by
  unfold State.pteRead
  exact if_congr (s.physOk_and_devices _ _ _) rfl rfl

/-- Writing an entry that could be read asks for the check of a store. -/
theorem State.pteWrite_of_read (h : s.pteRead a = some e) (pte : Word) : s.pteWrite a pte =
    if s.physOk a (pteSize s.cfg.xlen) .store .s = true then
      some (s.storeBytes (addrsFrom a (pteSize s.cfg.xlen)) pte.toNat) else none := by
  rw [s.pteRead_eq] at h
  split at h
  · next hc =>
    unfold State.pteWrite
    refine if_congr ((s.physOk_and_devices _ _ _).trans ?_) rfl rfl
    exact ⟨fun h => h.1, fun h => ⟨h, hc.2⟩⟩
  · cases h

/-! ## The walk -/

/-- The table that holds the entry of level `j`: the root, or where the entry above points. -/
def State.tableAt (s : State) (ptes : Nat → Word) (j : Nat) : Nat :=
  if j = topLevel s.cfg.xlen then satpPpn s.cfg.xlen s.satp * 4096 else ptePpn s.cfg.xlen (ptes (j + 1)) * 4096

/-- The physical address of the entry of level `j`. -/
def State.entryAt (s : State) (va : Word) (ptes : Nat → Word) (j : Nat) : Nat :=
  s.tableAt ptes j + vpn s.cfg.xlen va j * pteSize s.cfg.xlen

theorem State.walk_eq (s : State) (t : Access) (va : Word) (i a : Nat) : s.walk t va i a =
    match s.pteRead (a + vpn s.cfg.xlen va i * pteSize s.cfg.xlen) with
    | none => .error ⟨t.accessFault, va⟩
    | some pte =>
      if !pteV pte || (!pteR pte && pteW pte) then .error ⟨t.pageFault, va⟩
      else if pteR pte || pteX pte then .ok (pte, i, a + vpn s.cfg.xlen va i * pteSize s.cfg.xlen)
      else match i with
        | 0 => .error ⟨t.pageFault, va⟩
        | i' + 1 => s.walk t va i' (ptePpn s.cfg.xlen pte * 4096) := by
  refine (State.walk.eq_def s t va i a).trans ?_
  rfl

/-- Down through the pointers above level `i`. -/
theorem State.walk_down {ptes : Nat → Word} (hi : i ≤ topLevel s.cfg.xlen)
    (h : ∀ j, i < j → j ≤ topLevel s.cfg.xlen → s.pteRead (s.entryAt va ptes j) = some (ptes j) ∧ (ptes j).toNat % 16 = 1) :
    s.walk t va (topLevel s.cfg.xlen) (satpPpn s.cfg.xlen s.satp * 4096) = s.walk t va i (s.tableAt ptes i) := by
  have key (d : Nat) (hd : i + d ≤ topLevel s.cfg.xlen) :
      s.walk t va (i + d) (s.tableAt ptes (i + d)) = s.walk t va i (s.tableAt ptes i) := by
    induction d with
    | zero => rfl
    | succ d ih =>
      obtain ⟨hread, hpointer⟩ := h (i + (d + 1)) (by omega) hd
      obtain ⟨hv, hr, hw, hx⟩ := pte_pointer hpointer
      have hbelow : ptePpn s.cfg.xlen (ptes (i + (d + 1))) * 4096 = s.tableAt ptes (i + d) := by
        unfold State.tableAt
        rw [if_neg (by omega)]
        rfl
      unfold State.entryAt at hread
      rw [State.walk_eq, hread]
      simp only [hv, hr, hw, hx, Bool.not_true, Bool.not_false, Bool.and_false, Bool.or_self, Bool.false_eq_true, if_false]
      rw [hbelow]
      exact ih (by omega)
  obtain ⟨d, hd⟩ := Nat.exists_eq_add_of_le hi
  have htop : s.tableAt ptes (topLevel s.cfg.xlen) = satpPpn s.cfg.xlen s.satp * 4096 := if_pos rfl
  rw [← htop, hd]
  exact key d hd.ge

theorem State.walk_unreadable (h : s.pteRead (a + vpn s.cfg.xlen va i * pteSize s.cfg.xlen) = none) :
    s.walk t va i a = .error ⟨t.accessFault, va⟩ := by
  rw [State.walk_eq, h]

theorem State.walk_invalid (h : s.pteRead (a + vpn s.cfg.xlen va i * pteSize s.cfg.xlen) = some e)
    (hv : pteV e = false ∨ (pteR e = false ∧ pteW e = true)) : s.walk t va i a = .error ⟨t.pageFault, va⟩ := by
  rw [State.walk_eq, h]
  exact if_pos (by rcases hv with hv | ⟨hr, hw⟩ <;> simp [*])

theorem State.walk_last (h : s.pteRead (a + vpn s.cfg.xlen va 0 * pteSize s.cfg.xlen) = some e)
    (hr : pteR e = false) (hx : pteX e = false) : s.walk t va 0 a = .error ⟨t.pageFault, va⟩ := by
  rw [State.walk_eq, h]
  simp only [hr, hx]
  exact ite_self _

theorem State.walk_leaf (h : s.pteRead (a + vpn s.cfg.xlen va i * pteSize s.cfg.xlen) = some e)
    (hv : pteV e = true) (hrw : pteR e = true ∨ pteW e = false) (hrx : pteR e = true ∨ pteX e = true) :
    s.walk t va i a = .ok (e, i, a + vpn s.cfg.xlen va i * pteSize s.cfg.xlen) := by
  rw [State.walk_eq, h]
  have h1 : (!pteV e || (!pteR e && pteW e)) = false := by rcases hrw with h | h <;> simp [hv, h]
  have h2 : (pteR e || pteX e) = true := by rcases hrx with h | h <;> simp [h]
  simp only [h1, h2]
  rfl

/-! ## A leaf -/

/-- The permission test below machine mode, by the bits of the entry. -/
theorem State.leafAllowed_iff (hp : p ≠ .m) : s.leafAllowed e t p = true ↔
    (match t with
      | .fetch => e.getLsbD 3 = true
      | .load | .loadReserved => e.getLsbD 1 = true ∨ (s.mstatus.mxr = true ∧ e.getLsbD 3 = true)
      | .store | .storeConditional | .amo => e.getLsbD 2 = true) ∧
    (if p = .u then e.getLsbD 4 = true else e.getLsbD 4 = false ∨ (s.mstatus.sum = true ∧ t ≠ .fetch)) := by
  unfold State.leafAllowed
  rw [Bool.and_eq_true]
  refine and_congr ?_ ?_
  · cases t <;> simp [pteX, pteR, pteW]
  · cases p
    · simp [pteU]
    · simp [pteU]
    · exact absurd rfl hp

theorem leafStale_iff : leafStale e t = true ↔ e.getLsbD 6 = false ∨ (t.writes = true ∧ e.getLsbD 7 = false) := by
  simp [leafStale, pteA, pteD]

theorem State.leafOk_iff : s.leafOk e i t p = true ↔
    s.leafAllowed e t p = true ∧ ptePpn s.cfg.xlen e % 2 ^ (vpnBits s.cfg.xlen * i) = 0 := by
  simp [State.leafOk]

theorem State.cacheLeaf_eq (u : State) : u.cacheLeaf va e i =
    if u.cfg.tlbCaches then
      { u with tlb := ⟨BitVec.ofNat 64 (va.toNat / pageBytes u.cfg.xlen i * pageBytes u.cfg.xlen i), i,
                       satpAsid u.cfg.xlen u.satp, e⟩ :: u.tlb }
    else u := by
  unfold State.cacheLeaf
  split <;> rfl

theorem State.useLeaf_forbidden (h : s.leafOk e i t p = false) : s.useLeaf t p va (e, i, a) = .error ⟨t.pageFault, va⟩ := by
  simp [State.useLeaf, h]

theorem State.useLeaf_fresh (h : s.leafOk e i t p = true) (hs : leafStale e t = false) :
    s.useLeaf t p va (e, i, a) = .ok (s.cacheLeaf va e i, leafAddr s.cfg.xlen e i va) := by
  simp [State.useLeaf, h, hs]

theorem State.useLeaf_software (h : s.leafOk e i t p = true) (hs : leafStale e t = true) (hw : s.cfg.pteAdHw = false) :
    s.useLeaf t p va (e, i, a) = .error ⟨t.pageFault, va⟩ := by
  simp [State.useLeaf, h, hs, hw]

theorem State.useLeaf_hardware (h : s.leafOk e i t p = true) (hs : leafStale e t = true) (hw : s.cfg.pteAdHw = true) :
    s.useLeaf t p va (e, i, a) = match s.pteWrite a (leafTouched e t) with
      | none => .error ⟨t.accessFault, va⟩
      | some u => .ok (u.cacheLeaf va (leafTouched e t) i, leafAddr s.cfg.xlen e i va) := by
  simp [State.useLeaf, h, hs, hw] <;> rfl

/-! ## The translation -/

/-- A cached translation is used: it covers the address and asks for no update. -/
def State.TlbHit (s : State) (t : Access) (va : Word) (c : TlbEntry) : Prop :=
  va.toNat / pageBytes s.cfg.xlen c.level = c.page.toNat / pageBytes s.cfg.xlen c.level ∧
    (c.pte.getLsbD 5 = true ∨ c.asid = satpAsid s.cfg.xlen s.satp) ∧ ¬ leafStale c.pte t = true

theorem State.tlbHit_iff (c : TlbEntry) : (s.tlbCovers va c && !leafStale c.pte t) = true ↔ s.TlbHit t va c := by
  rw [Bool.and_eq_true, Bool.not_eq_true', ← Bool.not_eq_true, State.tlbCovers, Bool.and_eq_true,
    Bool.or_eq_true, beq_iff_eq, beq_iff_eq, and_assoc]
  rfl

theorem State.tlbFind_none (h : ∀ c ∈ s.tlb, ¬ s.TlbHit t va c) : s.tlbFind t va = none :=
  List.find?_eq_none.mpr fun c hc hhit => h c hc (s.tlbHit_iff c |>.mp hhit)

theorem State.tlbFind_some {before after : List TlbEntry} {c : TlbEntry} (htlb : s.tlb = before ++ c :: after)
    (hbefore : ∀ b ∈ before, ¬ s.TlbHit t va b) (hc : s.TlbHit t va c) : s.tlbFind t va = some c := by
  have hnone : before.find? (fun e => s.tlbCovers va e && !leafStale e.pte t) = none :=
    List.find?_eq_none.mpr fun b hb hhit => hbefore b hb (s.tlbHit_iff b |>.mp hhit)
  rw [State.tlbFind, htlb, List.find?_append, hnone, Option.none_or]
  exact List.find?_cons_of_pos ((s.tlbHit_iff c).mpr hc)

theorem State.translate_noncanonical (ht : s.translated p = true) (hc : canonical s.cfg.xlen va = false) :
    s.translate p t va = .error ⟨t.pageFault, va⟩ := by
  simp [State.translate, ht, hc]

theorem State.translate_cached {c : TlbEntry} (ht : s.translated p = true) (hc : canonical s.cfg.xlen va = true)
    (hf : s.tlbFind t va = some c) : s.translate p t va =
      if s.leafOk c.pte c.level t p then .ok (s, leafAddr s.cfg.xlen c.pte c.level va) else .error ⟨t.pageFault, va⟩ := by
  simp [State.translate, ht, hc, hf]

theorem State.translate_walk (ht : s.translated p = true) (hc : canonical s.cfg.xlen va = true)
    (hf : s.tlbFind t va = none) : s.translate p t va =
      match s.walk t va (topLevel s.cfg.xlen) (satpPpn s.cfg.xlen s.satp * 4096) with
      | .error f => .error f
      | .ok leaf => s.useLeaf t p va leaf := by
  simp [State.translate, ht, hc, hf] <;> rfl

end

end Sys2Proof.Machine
end

section
namespace Sys2Proof.Proofs
open Sys2Proof.Machine

/-- Settles O27: with the numbers of the format folded into the model's names, each clause is one way through
`State.translate`. -/
theorem pageTableWalk : Obligations.PageTableWalk := by
  unfold Obligations.PageTableWalk
  intro s t p va i ptes
  dsimp only
  simp only [← pteSize_eq, ← vpnBits_eq, ← topLevel_eq, ← ptePpn_eq, ← satpPpn_eq, ← pageBytes_eq, ← leafStale_iff,
    ← canonical_iff]
  refine ⟨fun hu => State.translate_untranslated hu t va, fun f => State.translate_error, s.pteRead_eq, ?_⟩
  intro hs hp hmode _
  have ht := State.translated_of_mode hs hp hmode
  have hok (e : Word) (l : Nat) := s.leafOk_iff (e := e) (i := l) (t := t) (p := p)
  have hallow (e : Word) := s.leafAllowed_iff (e := e) (t := t) hp
  refine ⟨fun hc => State.translate_noncanonical ht (Bool.not_eq_true _ ▸ hc), ?_, ?_⟩
  · intro before c after hc htlb hbefore hhit
    have hused := State.translate_cached ht hc (State.tlbFind_some htlb hbefore hhit)
    exact ⟨fun h => hused.trans (if_pos ((hok _ _).mpr ((and_congr_left' (hallow _)).mpr h))),
      fun h => hused.trans (if_neg fun hgood => h ((and_congr_left' (hallow _)).mp ((hok _ _).mp hgood)))⟩
  · intro hc hmiss hi hdown
    have hwalk := State.translate_walk ht hc (State.tlbFind_none hmiss)
    rw [State.walk_down hi hdown] at hwalk
    refine ⟨fun hnone => ?_, fun hread => ⟨fun hinvalid => ?_, ?_, ?_⟩⟩
    · rw [hwalk, State.walk_unreadable (a := s.tableAt ptes i) hnone]
    · rw [hwalk, State.walk_invalid (a := s.tableAt ptes i) hread hinvalid]
    · rintro rfl hr hx
      rw [hwalk, State.walk_last (a := s.tableAt ptes 0) hread hr hx]
    · rintro ⟨hv, hrw, hrx⟩
      rw [State.walk_leaf (a := s.tableAt ptes i) hread hv hrw hrx] at hwalk
      change _ = s.useLeaf t p va (ptes i, i, s.entryAt va ptes i) at hwalk
      refine ⟨fun hbad => ?_, fun hallowed haligned => ?_⟩
      · rw [hwalk]
        refine State.useLeaf_forbidden (Bool.eq_false_iff.mpr fun hgood => ?_)
        obtain ⟨hallowed, haligned⟩ := (hok _ i).mp hgood
        exact hbad.elim (fun h => h ((hallow _).mp hallowed)) fun h => h haligned
      · have hgood := (hok _ i).mpr ⟨(hallow _).mpr hallowed, haligned⟩
        refine ⟨fun hfresh => ?_, fun hstale hsoft => ?_, fun hstale hhard hphys => ?_, fun hstale hhard hphys => ?_⟩
        · rw [hwalk, State.useLeaf_fresh hgood (Bool.not_eq_true _ ▸ hfresh), State.cacheLeaf_eq]
          rfl
        · rw [hwalk, State.useLeaf_software hgood hstale hsoft]
        · have hno := (State.pteWrite_of_read (a := s.entryAt va ptes i) hread (leafTouched (ptes i) t)).trans
            (if_neg (Bool.eq_false_iff.mp hphys))
          rw [hwalk, State.useLeaf_hardware hgood hstale hhard, hno]
        · have hyes := (State.pteWrite_of_read (a := s.entryAt va ptes i) hread (leafTouched (ptes i) t)).trans
            (if_pos hphys)
          rw [hwalk, State.useLeaf_hardware hgood hstale hhard, hyes]
          dsimp only
          rw [State.cacheLeaf_eq]
          rfl

end Sys2Proof.Proofs
end

section
/-!
PROOFS. The numbers of the CSRs and the instructions that read and write them (10_state.md rules R42 to R44; 40_rv32i.md
rules R280 to R286).
-/

namespace Sys2Proof.Machine

/-! ## The numbers -/

theorem rv32Csr_eq (c : Config) (r : Csr) : rv32Csr c r = if c.xlen == .rv32 then some r else none := by
  unfold rv32Csr
  cases c.xlen <;> rfl

theorem csrOf_pmpcfg (c : Config) (k : Fin 4) : csrOf c (BitVec.ofNat 12 (0x3a0 + k.val)) = csrIf (pmpcfgExists c k) (.pmpcfg k) := by
  fin_cases k <;> rfl

theorem csrOf_pmpaddr (c : Config) (i : Fin 16) :
    csrOf c (BitVec.ofNat 12 (0x3b0 + i.val)) = csrIf (decide (i.val < c.pmpEntries)) (.pmpaddr i) := by
  fin_cases i <;> rfl

theorem pmpcfgExists_iff (c : Config) (k : Fin 4) :
    pmpcfgExists c k = true ↔ 4 * k.val < c.pmpEntries ∧ (c.xlen = .rv32 ∨ k.val % 2 = 0) := by
  unfold pmpcfgExists
  cases c.xlen <;> simp [and_comm]

theorem csrPrivOk_iff (p : Priv) (a : BitVec 12) : csrPrivOk p a = true ↔ a.toNat / 256 % 4 ≤ p.code.toNat := by
  simp only [csrPrivOk, BitVec.ule, decide_eq_true_eq, BitVec.extractLsb'_toNat, Nat.shiftRight_eq_div_pow]

theorem csrReadOnly_iff (a : BitVec 12) : csrReadOnly a = true ↔ a.toNat / 1024 = 3 := by
  have ha := a.isLt
  simp only [csrReadOnly, beq_iff_eq, ← BitVec.toNat_inj, BitVec.extractLsb'_toNat, Nat.shiftRight_eq_div_pow]
  change a.toNat / 1024 % 4 = 3 ↔ _
  omega

/-! ## The instructions -/

section
variable {s : State} {i : Instr} {rd : Reg} {a : BitVec 12} {r : Csr} {new : Option (Word → Word)}

/-- The checks pass exactly where the access is allowed. -/
theorem State.mayAccess_iff (hr : csrOf s.cfg a = some r) (writes : Bool) :
    s.MayAccess a writes r ↔ (!csrPrivOk s.priv a || (writes && csrReadOnly a)) = false := by
  rw [State.MayAccess, ← csrPrivOk_iff, Ne, ← csrReadOnly_iff]
  cases csrPrivOk s.priv a <;> cases writes <;> cases csrReadOnly a <;> simp [hr]

theorem State.csrAccess_allowed (h : s.MayAccess a new.isSome r) : s.csrAccess i rd a new =
    .next ((match new with
      | none => s.setX rd (s.csrRead r)
      | some g => (s.setX rd (s.csrRead r)).csrWrite r (g (s.csrRead r))).retire 4) := by
  have hr := h.1
  rw [State.mayAccess_iff hr] at h
  simp only [State.csrAccess, hr, h]
  rfl

theorem State.csrAccess_refused (h : ∀ r, ¬ s.MayAccess a new.isSome r) : s.csrAccess i rd a new = .next (s.illegal i) := by
  unfold State.csrAccess
  split
  · rfl
  · next r hr =>
    have hno := h r
    rw [State.mayAccess_iff hr, Bool.not_eq_false] at hno
    exact if_pos hno

theorem accessesCsr_of_csrAccess (hi : exec i s = s.csrAccess i rd a new) (h : s.MayAccess a new.isSome r) :
    AccessesCsr i s rd r (new.map fun g => g (s.csrRead r)) := by
  have hux (t : State) (hx : t.x = (s.setX rd (s.csrRead r)).x) (hc : t.cfg = s.cfg) (q : Reg) :
      t.ux q = if q ≠ 0 ∧ q = rd then (s.csrRead r).toNat else s.ux q := by
    have ht : t.ux q = (s.setX rd (s.csrRead r)).ux q := by unfold State.ux; rw [State.getX_congr hx hc]
    have hlt : (s.csrRead r).toNat < 2 ^ s.width :=
      (Xlen.norm_toNat _ _).trans_lt (Nat.mod_lt _ (Nat.two_pow_pos _))
    rw [ht, State.ux_setX, Nat.mod_eq_of_lt hlt]
    exact if_congr (and_congr_right' eq_comm) rfl rfl
  rw [State.csrAccess_allowed h] at hi
  cases new with
  | none => exact ⟨_, hi, hux _ rfl rfl, s.pcPlus_toNat 4, rfl, fun _ => rfl, rfl⟩
  | some g =>
    have hc := s.csrWritten_csrWrite r (g (s.csrRead r))
    have hpc : (s.csrWrite r (g (s.csrRead r))).pcPlus 4 = s.pcPlus 4 := by rw [hc]; rfl
    have hcfg : (s.csrWrite r (g (s.csrRead r))).cfg = s.cfg := by rw [hc]
    have hmem : (s.csrWrite r (g (s.csrRead r))).mem = s.mem := by rw [hc]
    have hinstret : (s.csrWrite r (g (s.csrRead r))).instret = s.instret := by rw [hc]
    have hx : (s.setX rd (s.csrRead r)).csrWrite r (g (s.csrRead r)) =
        { s.csrWrite r (g (s.csrRead r)) with x := (s.setX rd (s.csrRead r)).x } := s.csrWrite_withX _ r _
    simp only [hx] at hi
    exact ⟨_, hi, hux _ rfl hcfg, (congrArg BitVec.toNat hpc).trans (s.pcPlus_toNat 4), congrArg (· + 1) hinstret,
      fun a => congrArg (fun m => m.read a) hmem, rfl⟩

/-- The two halves of what a CSR instruction does. -/
theorem csrAccess_does (hi : exec i s = s.csrAccess i rd a new) :
    (∀ r, s.MayAccess a new.isSome r → AccessesCsr i s rd r (new.map fun g => g (s.csrRead r))) ∧
    ((∀ r, ¬ s.MayAccess a new.isSome r) → IsIllegal i s) :=
  ⟨fun _ h => accessesCsr_of_csrAccess hi h, fun h => isIllegal_of_illegal (hi.trans (State.csrAccess_refused h))⟩

/-- The forms that only read under a condition `p`. -/
theorem csrAccess_does_unless {p : Prop} [Decidable p] {g : Word → Word}
    (hi : exec i s = s.csrAccess i rd a (if p then none else some g)) :
    (∀ r, s.MayAccess a (decide ¬p) r →
      AccessesCsr i s rd r (if (decide ¬p) = true then some (g (s.csrRead r)) else none)) ∧
    ((∀ r, ¬ s.MayAccess a (decide ¬p) r) → IsIllegal i s) := by
  by_cases hp : p
  · simp only [hp, not_true_eq_false, decide_false, Bool.false_eq_true, if_false]
    exact csrAccess_does (new := none) (by rw [hi, if_pos hp])
  · simp only [hp, not_false_eq_true, decide_true]
    exact csrAccess_does (new := some g) (by rw [hi, if_neg hp])

end

end Sys2Proof.Machine

namespace Sys2Proof.Proofs
open Sys2Proof.Machine

/-- Settles O34: the table of numbers, and the one access that the six instructions make. -/
theorem csrInstructions : Obligations.CsrInstructions := by
  unfold Obligations.CsrInstructions
  refine ⟨fun c => ⟨?_, fun k => ?_, fun i => ?_, fun a hnamed hcfg haddr => ?_⟩, fun s rd rs1 a zimm => ?_⟩
  · simp only [List.forall_mem_cons, ← rv32Csr_eq]
    exact ⟨rfl, rfl, rfl, rfl, rfl, rfl, rfl, rfl, rfl, rfl, rfl, rfl, rfl, rfl, rfl, rfl, rfl, rfl, rfl, rfl, rfl, rfl,
      rfl, rfl, rfl, rfl, rfl, rfl, fun _ h => nomatch h⟩
  · rw [csrOf_pmpcfg]
    exact if_congr (pmpcfgExists_iff c k) rfl rfl
  · rw [csrOf_pmpaddr]
    exact if_congr decide_eq_true_iff rfl rfl
  · simp only [List.forall_mem_cons] at hnamed
    have hcfg' : ¬ a.extractLsb' 2 10 = 0x0e8#10 := by
      rw [← BitVec.toNat_inj, BitVec.extractLsb'_toNat, Nat.shiftRight_eq_div_pow]
      change ¬ a.toNat / 4 % 1024 = 232
      omega
    have haddr' : ¬ a.extractLsb' 4 8 = 0x3b#8 := by
      rw [← BitVec.toNat_inj, BitVec.extractLsb'_toNat, Nat.shiftRight_eq_div_pow]
      change ¬ a.toNat / 16 % 256 = 59
      omega
    simp [csrOf, ← BitVec.toNat_inj, hnamed, hcfg', haddr']
  · exact ⟨csrAccess_does (new := some fun _ => s.getX rs1) rfl,
      csrAccess_does_unless (p := rs1 = 0) (g := fun t => t ||| s.getX rs1) rfl,
      csrAccess_does_unless (p := rs1 = 0) (g := fun t => t &&& ~~~s.getX rs1) rfl,
      csrAccess_does (new := some fun _ => zimm.setWidth 64) rfl,
      csrAccess_does_unless (p := zimm = 0) (g := fun t => t ||| zimm.setWidth 64) rfl,
      csrAccess_does_unless (p := zimm = 0) (g := fun t => t &&& ~~~(zimm.setWidth 64)) rfl⟩

end Sys2Proof.Proofs
end

section
/-!
PROOFS. What a CSR reads as after a write (10_state.md rules R33, R36, R49 to R61).
-/

namespace Sys2Proof.Machine

/-! ## Values and fields as numbers -/

theorem append_toNat {m n : Nat} (a : BitVec m) (b : BitVec n) : (a ++ b).toNat = a.toNat * 2 ^ n + b.toNat := by
  rw [BitVec.toNat_append, ← Nat.shiftLeft_add_eq_or_of_lt b.isLt, Nat.shiftLeft_eq]

/-- The low `n` bits of the `XLEN` low ones. -/
theorem State.mod_width_mod (s : State) (v n : Nat) (hn : n ≤ 32) : v % 2 ^ s.width % 2 ^ n = v % 2 ^ n :=
  Nat.mod_mod_of_dvd _ (pow_dvd_pow _ (hn.trans (Xlen.bits_cases s.cfg.xlen |>.elim (·.ge) fun h => by
    rw [State.width, h]; decide)))

section
variable (s : State) (v : Word)

theorem State.csrRead_toNat (r : Csr) : (s.csrRead r).toNat = (s.csrValue r).toNat % 2 ^ s.width := Xlen.norm_toNat _ _

/-- A value under a mask of a few low bits. -/
theorem State.and_mask_toNat {m : Word} (hm : m.toNat < 2 ^ 32) :
    (v &&& m).toNat % 2 ^ s.width = v.toNat % 2 ^ s.width &&& m.toNat := by
  have hw : m.toNat < 2 ^ s.width := hm.trans_le (Nat.pow_le_pow_right (by decide) s.width_ge)
  rw [BitVec.toNat_and, Nat.and_mod_two_pow, Nat.mod_eq_of_lt hw]

theorem State.epcOf_epcOf_toNat : (s.epcOf (s.epcOf v)).toNat % 2 ^ s.width = v.toNat % 2 ^ s.width / s.ialign * s.ialign := by
  have hlt : v.toNat % 2 ^ s.width / s.ialign * s.ialign < 2 ^ s.width :=
    (Nat.div_mul_le_self _ _).trans_lt (Nat.mod_lt _ (Nat.two_pow_pos _))
  have hpos : 0 < s.ialign := by rcases s.ialign_cases with ⟨h, _⟩ | ⟨h, _⟩ <;> rw [h] <;> decide
  rw [s.epcOf_toNat, s.epcOf_toNat, Nat.mod_eq_of_lt hlt, Nat.mul_div_cancel _ hpos, Nat.mod_eq_of_lt hlt]

/-! ### Trap vectors -/

theorem tvec_toNat (w : Word) : ((v &&& ~~~3#64) ||| (w &&& 3#64)).toNat = v.toNat / 4 * 4 + w.toNat % 4 := by
  have he : (v &&& ~~~3#64) ||| (w &&& 3#64) = (v.extractLsb' 2 62 ++ w.extractLsb' 0 2 : BitVec 64) := by
    refine eq_of_bits fun i hi => ?_
    have h3 : (3#64).getLsbD i = decide (i < 2) := by interval_cases i <;> rfl
    simp only [BitVec.getLsbD_or, BitVec.getLsbD_and, BitVec.getLsbD_not, BitVec.getLsbD_append, BitVec.getLsbD_extractLsb', h3]
    by_cases h2 : i < 2
    · simp [h2, hi]
    · have hk : i - 2 < 62 := by omega
      simp [h2, hi, hk, show 2 + (i - 2) = i by omega]
  rw [he, append_toNat, BitVec.extractLsb'_toNat, BitVec.extractLsb'_toNat, Nat.shiftRight_eq_div_pow, Nat.shiftRight_zero]
  have hv := v.isLt
  omega

/-- The field keeps its old value where the new one is not legal. -/
theorem State.tvec_keeps (v : Word) : (v.extractLsb' 0 2 == 0b10#2 || v.extractLsb' 0 2 == 0b11#2 ||
      (v.extractLsb' 0 2 == 0b01#2 && !s.cfg.vectored)) =
    !decide (v.toNat % 4 = 0 ∨ (v.toNat % 4 = 1 ∧ s.cfg.vectored = true)) := by
  have hmode (m : BitVec 2) : (v.extractLsb' 0 2 == m) = decide (v.toNat % 4 = m.toNat) := by
    rw [Bool.eq_iff_iff, beq_iff_eq, decide_eq_true_iff, ← BitVec.toNat_inj, BitVec.extractLsb'_toNat, Nat.shiftRight_zero]
  simp only [hmode, BitVec.toNat_ofNat]
  cases s.cfg.vectored <;> rw [Bool.eq_iff_iff] <;> simp <;> omega

theorem State.putTvec_toNat (old : Word) : (s.putTvec old v).toNat =
    v.toNat % 2 ^ s.width / 4 * 4 +
      (if v.toNat % 4 = 0 ∨ (v.toNat % 4 = 1 ∧ s.cfg.vectored = true) then v else old).toNat % 4 := by
  unfold State.putTvec
  simp only [s.tvec_keeps, Bool.not_eq_true', decide_eq_false_iff_not, ite_not]
  generalize (if v.toNat % 4 = 0 ∨ (v.toNat % 4 = 1 ∧ s.cfg.vectored = true) then v else old) = w
  rw [Xlen.norm_toNat, tvec_toNat]
  rcases Xlen.bits_cases s.cfg.xlen with hw | hw <;> rw [State.width, hw] <;> omega

theorem State.putTvec_legal (old : Word)
    (h : v.toNat % 2 ^ s.width % 4 = 0 ∨ (v.toNat % 2 ^ s.width % 4 = 1 ∧ s.cfg.vectored = true)) :
    (s.putTvec old v).toNat = v.toNat % 2 ^ s.width := by
  have h4 : v.toNat % 2 ^ s.width % 4 = v.toNat % 4 := s.mod_width_mod v.toNat 2 (by decide)
  rw [h4] at h
  rw [s.putTvec_toNat, if_pos h]
  omega

theorem State.putTvec_reserved (old : Word)
    (h : ¬ (v.toNat % 2 ^ s.width % 4 = 0 ∨ (v.toNat % 2 ^ s.width % 4 = 1 ∧ s.cfg.vectored = true))) :
    (s.putTvec old v).toNat = v.toNat % 2 ^ s.width / 4 * 4 + old.toNat % 4 := by
  have h4 : v.toNat % 2 ^ s.width % 4 = v.toNat % 4 := s.mod_width_mod v.toNat 2 (by decide)
  rw [h4] at h
  rw [s.putTvec_toNat, if_neg h]

theorem State.putTvec_lt (old : Word) : (s.putTvec old v).toNat < 2 ^ s.width :=
  (Xlen.norm_toNat _ _).trans_lt (Nat.mod_lt _ (Nat.two_pow_pos _))

/-! ### `satp` -/

/-- Of an address-space identifier the implemented bits stay. -/
theorem asid_toNat {n k : Nat} (hk : k ≤ n) (a : BitVec n) : (a &&& BitVec.ofNat n (2 ^ k - 1)).toNat = a.toNat % 2 ^ k := by
  have hlt : 2 ^ k - 1 < 2 ^ n := by
    have := Nat.pow_le_pow_right (n := 2) (by decide) hk
    have := Nat.two_pow_pos k
    omega
  rw [BitVec.toNat_and, BitVec.toNat_ofNat, Nat.mod_eq_of_lt hlt, Nat.and_two_pow_sub_one_eq_mod]

/-- The identifier's field, cut by its own width and by the implemented one. -/
theorem mod_two_pow_mod_comm (v n k : Nat) : v % 2 ^ n % 2 ^ k = v % 2 ^ k % 2 ^ n := by
  rw [← Nat.and_two_pow_sub_one_eq_mod, ← Nat.and_two_pow_sub_one_eq_mod, ← Nat.and_two_pow_sub_one_eq_mod,
    ← Nat.and_two_pow_sub_one_eq_mod, Nat.and_right_comm]

theorem State.putSatp_rv32 (hx : s.cfg.xlen = .rv32) (hk : s.cfg.asidBits ≤ 9) : (s.putSatp v).toNat =
    v.toNat % 2 ^ 32 / 2 ^ 31 * 2 ^ 31 + v.toNat % 2 ^ 32 / 2 ^ 22 % 2 ^ s.cfg.asidBits % 2 ^ 9 * 2 ^ 22 +
      v.toNat % 2 ^ 32 % 2 ^ 22 := by
  have hfield : v.toNat % 2 ^ 32 / 2 ^ 22 % 2 ^ 9 = v.toNat / 2 ^ 22 % 2 ^ 9 := by omega
  unfold State.putSatp
  rw [hx]
  simp only
  rw [BitVec.toNat_setWidth_of_le (by decide), append_toNat, append_toNat, asid_toNat hk]
  simp only [BitVec.extractLsb'_toNat, Nat.shiftRight_eq_div_pow]
  rw [mod_two_pow_mod_comm _ s.cfg.asidBits, hfield]
  omega

/-- The mode that RV64 takes, and what the write then leaves. -/
theorem State.putSatp_rv64_eq (hx : s.cfg.xlen = .rv64) : s.putSatp v =
    if v.toNat / 2 ^ 60 = 0 ∨ v.toNat / 2 ^ 60 = 8 then
      v.extractLsb' 60 4 ++ (v.extractLsb' 44 16 &&& BitVec.ofNat 16 (2 ^ s.cfg.asidBits - 1)) ++ v.extractLsb' 0 44
    else s.satp := by
  have hmode (m : BitVec 4) : v.extractLsb' 60 4 = m ↔ v.toNat / 2 ^ 60 = m.toNat := by
    have hv := v.isLt
    rw [← BitVec.toNat_inj, BitVec.extractLsb'_toNat, Nat.shiftRight_eq_div_pow]
    omega
  unfold State.putSatp
  rw [hx]
  exact if_congr (or_congr (hmode 0#4) (hmode 8#4)) rfl rfl

theorem State.putSatp_rv64 (hx : s.cfg.xlen = .rv64) (hk : s.cfg.asidBits ≤ 16)
    (hm : v.toNat / 2 ^ 60 = 0 ∨ v.toNat / 2 ^ 60 = 8) : (s.putSatp v).toNat =
    v.toNat / 2 ^ 60 * 2 ^ 60 + v.toNat / 2 ^ 44 % 2 ^ s.cfg.asidBits % 2 ^ 16 * 2 ^ 44 + v.toNat % 2 ^ 44 := by
  have hv := v.isLt
  rw [s.putSatp_rv64_eq v hx, if_pos hm, append_toNat, append_toNat, asid_toNat hk]
  simp only [BitVec.extractLsb'_toNat, Nat.shiftRight_eq_div_pow]
  rw [mod_two_pow_mod_comm _ s.cfg.asidBits]
  omega

theorem State.putSatp_reserved (hx : s.cfg.xlen = .rv64) (h0 : v.toNat / 2 ^ 60 ≠ 0) (h8 : v.toNat / 2 ^ 60 ≠ 8) :
    s.putSatp v = s.satp := by
  rw [s.putSatp_rv64_eq v hx, if_neg (fun h => h.elim h0 h8)]

/-! ### PMP configuration bytes -/

theorem pmpByte_toNat (old new : BitVec 8) (h : old.toNat / 128 = 0) : (pmpByte old new).toNat =
    new.toNat / 128 * 128 + (if new.toNat / 16 % 2 = 1 then old.toNat / 8 % 4 else new.toNat / 8 % 4) * 8 + new.toNat % 8 := by
  have hnew := new.isLt
  have h4 : new.getLsbD 4 = decide (new.toNat / 16 % 2 = 1) := by
    rw [BitVec.getLsbD, Nat.testBit_eq_decide_div_mod_eq]
  unfold pmpByte
  rw [if_neg (Bool.eq_false_iff.mp ((pmpLock_eq_false_iff old).mpr h)), h4, append_toNat, append_toNat, append_toNat]
  simp only [decide_eq_true_eq]
  split <;> simp only [BitVec.extractLsb'_toNat, Nat.shiftRight_eq_div_pow, BitVec.toNat_ofNat] <;> omega

theorem pmpByte_locked (old new : BitVec 8) (h : old.toNat / 128 ≠ 0) : pmpByte old new = old :=
  if_pos (by rwa [Ne, ← pmpLock_eq_false_iff, Bool.not_eq_false] at h)

/-- Each byte after a write of `count` of them. -/
theorem State.pmpCfgAt_putPmpBytes (i : Nat) (v : Word) (count j : Nat) (hj : j < 16) :
    (s.putPmpBytes i v count).pmpCfgAt j =
      if i ≤ j ∧ j < i + count ∧ j < s.cfg.pmpEntries then
        pmpByte (s.pmpCfgAt j) (BitVec.ofNat 8 (v.toNat / 2 ^ (8 * (j - i))))
      else s.pmpCfgAt j := by
  induction count generalizing s i v with
  | zero =>
    rw [if_neg (by omega)]
    rfl
  | succ count ih =>
    have hcfg : (s.putPmpByte i (v.extractLsb' 0 8)).cfg = s.cfg := by
      obtain ⟨cs, h⟩ := s.putPmpByte_eq i (v.extractLsb' 0 8)
      rw [h]
    have hlow : v.extractLsb' 0 8 = BitVec.ofNat 8 v.toNat := by
      apply BitVec.eq_of_toNat_eq
      rw [BitVec.extractLsb'_toNat, BitVec.toNat_ofNat, Nat.shiftRight_zero]
    rw [State.putPmpBytes, ih, hcfg, s.pmpCfgAt_putPmpByte]
    by_cases hij : i = j
    · subst hij
      by_cases he : i < s.cfg.pmpEntries
      · simp [he, hj, hlow]
      · simp [he]
    · have hrange : (i + 1 ≤ j ∧ j < i + 1 + count ∧ j < s.cfg.pmpEntries) ↔
          (i ≤ j ∧ j < i + (count + 1) ∧ j < s.cfg.pmpEntries) := by omega
      have hother : (if i = j ∧ i < s.cfg.pmpEntries ∧ i < 16 then pmpByte (s.pmpCfgAt i) (v.extractLsb' 0 8)
          else s.pmpCfgAt j) = s.pmpCfgAt j := if_neg fun h => hij h.1
      rw [hother]
      by_cases hin : i ≤ j ∧ j < i + (count + 1) ∧ j < s.cfg.pmpEntries
      · have hsub : 8 * (j - i) = 8 + 8 * (j - (i + 1)) := by omega
        rw [if_pos hin, if_pos (hrange.mpr hin), BitVec.toNat_ushiftRight, Nat.shiftRight_eq_div_pow, Nat.div_div_eq_div_mul,
          ← Nat.pow_add, hsub]
      · rw [if_neg hin, if_neg (hrange.not.mpr hin)]

theorem State.putPmpcfg_count (k : Nat) :
    s.putPmpcfg k v = s.putPmpBytes (4 * k) v (if s.cfg.xlen = .rv32 then 4 else 8) := by
  unfold State.putPmpcfg
  cases s.cfg.xlen <;> rfl

theorem State.pmpCfgAt_putPmpcfg (k : Nat) {j : Nat} (hj : j < 16) : ((s.putPmpcfg k v).pmpCfgAt j).toNat =
    if 4 * k ≤ j ∧ j < 4 * k + (if s.cfg.xlen = .rv32 then 4 else 8) ∧ j < s.cfg.pmpEntries ∧
        (s.pmpCfgAt j).toNat / 128 = 0 then
      v.toNat / 2 ^ (8 * (j - 4 * k)) % 256 / 128 * 128 +
        (if v.toNat / 2 ^ (8 * (j - 4 * k)) % 256 / 16 % 2 = 1 then (s.pmpCfgAt j).toNat / 8 % 4
          else v.toNat / 2 ^ (8 * (j - 4 * k)) % 256 / 8 % 4) * 8 + v.toNat / 2 ^ (8 * (j - 4 * k)) % 256 % 8
    else (s.pmpCfgAt j).toNat := by
  rw [s.putPmpcfg_count, s.pmpCfgAt_putPmpBytes _ _ _ _ hj]
  generalize (if s.cfg.xlen = .rv32 then 4 else 8) = count
  by_cases hlock : (s.pmpCfgAt j).toNat / 128 = 0
  · simp only [hlock, and_true]
    split
    · rw [pmpByte_toNat _ _ hlock, BitVec.toNat_ofNat]
    · rfl
  · rw [pmpByte_locked _ _ hlock, ite_self, if_neg (fun h => hlock h.2.2.2)]

/-- One more byte above the lower ones. -/
theorem or_byte_toNat {w : Word} {n : Nat} (b : BitVec 8) (hw : w.toNat < 2 ^ n) (hn : n ≤ 56) :
    (w ||| b.setWidth 64 <<< n).toNat = w.toNat + b.toNat * 2 ^ n := by
  have hb : b.toNat * 2 ^ n < 2 ^ 64 := by
    calc b.toNat * 2 ^ n < 2 ^ 8 * 2 ^ n := Nat.mul_lt_mul_of_pos_right b.isLt (Nat.two_pow_pos _)
      _ = 2 ^ (8 + n) := (Nat.pow_add ..).symm
      _ ≤ 2 ^ 64 := Nat.pow_le_pow_right (by decide) (by omega)
  have hs : (b.setWidth 64 <<< n).toNat = b.toNat <<< n := by
    rw [BitVec.toNat_shiftLeft, BitVec.toNat_setWidth_of_le (by decide), Nat.mod_eq_of_lt (by rwa [Nat.shiftLeft_eq])]
  rw [BitVec.toNat_or, hs, Nat.or_comm, ← Nat.shiftLeft_add_eq_or_of_lt hw, Nat.shiftLeft_eq, Nat.add_comm]

theorem four_bytes_toNat (c : Nat → BitVec 8) :
    (((c 0).setWidth 64 <<< 0 ||| (c 1).setWidth 64 <<< 8 ||| (c 2).setWidth 64 <<< 16 ||| (c 3).setWidth 64 <<< 24 : Word)).toNat =
      (c 0).toNat + (c 1).toNat * 2 ^ 8 + (c 2).toNat * 2 ^ 16 + (c 3).toNat * 2 ^ 24 := by
  have h0 := (c 0).isLt
  have h1 := (c 1).isLt
  have h2 := (c 2).isLt
  have e0 : ((c 0).setWidth 64 <<< 0 : Word).toNat = (c 0).toNat := by
    rw [BitVec.shiftLeft_zero, BitVec.toNat_setWidth_of_le (by decide)]
  have e1 := or_byte_toNat (w := (c 0).setWidth 64 <<< 0) (n := 8) (c 1) (by omega) (by decide)
  have e2 := or_byte_toNat (w := (c 0).setWidth 64 <<< 0 ||| (c 1).setWidth 64 <<< 8) (n := 16) (c 2) (by omega) (by decide)
  have e3 := or_byte_toNat (w := (c 0).setWidth 64 <<< 0 ||| (c 1).setWidth 64 <<< 8 ||| (c 2).setWidth 64 <<< 16) (n := 24) (c 3)
    (by omega) (by decide)
  omega

theorem eight_bytes_toNat (c : Nat → BitVec 8) :
    (((c 0).setWidth 64 <<< 0 ||| (c 1).setWidth 64 <<< 8 ||| (c 2).setWidth 64 <<< 16 ||| (c 3).setWidth 64 <<< 24 |||
        (c 4).setWidth 64 <<< 32 ||| (c 5).setWidth 64 <<< 40 ||| (c 6).setWidth 64 <<< 48 ||| (c 7).setWidth 64 <<< 56 : Word)).toNat =
      (c 0).toNat + (c 1).toNat * 2 ^ 8 + (c 2).toNat * 2 ^ 16 + (c 3).toNat * 2 ^ 24 + (c 4).toNat * 2 ^ 32 +
        (c 5).toNat * 2 ^ 40 + (c 6).toNat * 2 ^ 48 + (c 7).toNat * 2 ^ 56 := by
  have h0 := (c 0).isLt
  have h1 := (c 1).isLt
  have h2 := (c 2).isLt
  have h3 := (c 3).isLt
  have h4 := (c 4).isLt
  have h5 := (c 5).isLt
  have h6 := (c 6).isLt
  have e3 := four_bytes_toNat c
  generalize ((c 0).setWidth 64 <<< 0 ||| (c 1).setWidth 64 <<< 8 ||| (c 2).setWidth 64 <<< 16 ||| (c 3).setWidth 64 <<< 24 : Word) = w
    at e3 ⊢
  have e4 := or_byte_toNat (w := w) (n := 32) (c 4) (by omega) (by decide)
  have e5 := or_byte_toNat (w := w ||| (c 4).setWidth 64 <<< 32) (n := 40) (c 5) (by omega) (by decide)
  have e6 := or_byte_toNat (w := w ||| (c 4).setWidth 64 <<< 32 ||| (c 5).setWidth 64 <<< 40) (n := 48) (c 6) (by omega) (by decide)
  have e7 := or_byte_toNat (w := w ||| (c 4).setWidth 64 <<< 32 ||| (c 5).setWidth 64 <<< 40 ||| (c 6).setWidth 64 <<< 48) (n := 56)
    (c 7) (by omega) (by decide)
  omega

/-- The byte of `pmpcfg` k in place j: that of the entry, or 0 where the hart has none. -/
def State.pmpPlace (s : State) (k j : Nat) : BitVec 8 := if 4 * k + j < s.cfg.pmpEntries then s.pmpCfgAt (4 * k + j) else 0

theorem State.pmpPlace_setWidth (k j : Nat) :
    (if 4 * k + j < s.cfg.pmpEntries then (s.pmpCfgAt (4 * k + j)).setWidth 64 else 0) = (s.pmpPlace k j).setWidth 64 := by
  unfold State.pmpPlace
  split <;> rfl

/-- The bytes that a register packs. -/
theorem State.csrRead_pmpcfg_byte (k : Fin 4) {j : Nat} (hj : j < if s.cfg.xlen = .rv32 then 4 else 8) :
    (s.csrRead (.pmpcfg k)).toNat / 256 ^ j % 256 =
      if 4 * k.val + j < s.cfg.pmpEntries then (s.pmpCfgAt (4 * k.val + j)).toNat else 0 := by
  have hplace : (if 4 * k.val + j < s.cfg.pmpEntries then (s.pmpCfgAt (4 * k.val + j)).toNat else 0) = (s.pmpPlace k j).toNat := by
    unfold State.pmpPlace
    split <;> rfl
  have hlt (i : Nat) := (s.pmpPlace k i).isLt
  have h0 := hlt 0
  have h1 := hlt 1
  have h2 := hlt 2
  have h3 := hlt 3
  have h4 := hlt 4
  have h5 := hlt 5
  have h6 := hlt 6
  have h7 := hlt 7
  rw [hplace, s.csrRead_toNat, State.width]
  simp only [State.csrValue, State.pmpcfgWord, s.pmpPlace_setWidth]
  cases hx : s.cfg.xlen
  · have hword := four_bytes_toNat (s.pmpPlace k)
    rw [hx, if_pos rfl] at hj
    simp only at hword ⊢
    rw [hword]
    interval_cases j <;> simp only [Xlen.bits] <;> omega
  · have hword := eight_bytes_toNat (s.pmpPlace k)
    rw [hx, if_neg (by decide)] at hj
    simp only at hword ⊢
    rw [hword]
    interval_cases j <;> simp only [Xlen.bits] <;> omega

/-! ### The fields of `fcsr` -/

theorem State.fflags_toNat : s.fflags.toNat = s.fcsr.toNat % 32 := BitVec.extractLsb'_toNat ..

theorem State.frm_toNat : s.frm.toNat = s.fcsr.toNat / 32 := by
  have h := s.fcsr.isLt
  rw [State.frm, BitVec.extractLsb'_toNat, Nat.shiftRight_eq_div_pow]
  omega

theorem State.fflags_csrWrite : (s.csrWrite .fflags v).fflags.toNat = v.toNat % 32 := by
  rw [State.fflags_toNat]
  simp only [State.csrWrite]
  rw [append_toNat, BitVec.extractLsb'_toNat, Nat.shiftRight_zero]
  omega

theorem State.frm_csrWrite : (s.csrWrite .frm v).frm.toNat = v.toNat % 8 := by
  have h := s.fflags.isLt
  rw [State.frm_toNat]
  simp only [State.csrWrite]
  rw [append_toNat, BitVec.extractLsb'_toNat, Nat.shiftRight_zero]
  omega

/-! ### The interrupt registers -/

theorem getLsbD_midelegMask (k : Nat) : midelegMask.getLsbD k = decide (k = 1 ∨ k = 5 ∨ k = 9) := by
  by_cases hk : k < 64
  · exact (by decide : ∀ k < 64, midelegMask.getLsbD k = decide (k = 1 ∨ k = 5 ∨ k = 9)) k hk
  · rw [BitVec.getLsbD_of_ge _ _ (by omega)]
    exact (decide_eq_false (by omega)).symm

variable {s} in
theorem getLsbD_mieMask (h : s.cfg.modes.hasS = true) {k : Nat} (hk : k = 1 ∨ k = 5 ∨ k = 9) :
    (mieMask s.cfg).getLsbD k = true ∧ decide (k < s.cfg.xlen.bits) = true := by
  unfold mieMask
  rw [if_pos h, decide_eq_true_eq]
  have hw := Xlen.bits_cases s.cfg.xlen
  rcases hk with rfl | rfl | rfl <;> exact ⟨rfl, by omega⟩

theorem State.getLsbD_sie (k : Nat) :
    (s.csrRead .sie).getLsbD k = ((s.csrRead .mie).getLsbD k && s.mideleg.getLsbD k) := by
  simp only [State.csrRead, Xlen.getLsbD_norm, State.csrValue, BitVec.getLsbD_and, Bool.and_assoc]

theorem State.getLsbD_sip (k : Nat) :
    (s.csrRead .sip).getLsbD k = ((s.csrRead .mip).getLsbD k && s.mideleg.getLsbD k) := by
  simp only [State.csrRead, Xlen.getLsbD_norm, State.csrValue, BitVec.getLsbD_and, Bool.and_assoc]

/-- A write of `sie` reaches the delegated supervisor bits of `mie`. -/
theorem State.getLsbD_mie_sie (h : s.cfg.modes.hasS = true) (k : Nat) :
    ((s.csrWrite .sie v).csrRead .mie).getLsbD k =
      if k ∈ [1, 5, 9] ∧ s.mideleg.getLsbD k = true then v.getLsbD k else (s.csrRead .mie).getLsbD k := by
  have hread : ((s.csrWrite .sie v).csrRead .mie).getLsbD k = (decide (k < s.cfg.xlen.bits) &&
      ((s.mie.getLsbD k && (decide (k < 64) && !(s.mideleg.getLsbD k && midelegMask.getLsbD k)) ||
        v.getLsbD k && (s.mideleg.getLsbD k && midelegMask.getLsbD k)) && (mieMask s.cfg).getLsbD k)) := by
    simp only [State.csrRead, Xlen.getLsbD_norm, State.csrValue, State.csrWrite, State.mieBits, BitVec.getLsbD_and,
      BitVec.getLsbD_or, BitVec.getLsbD_not]
  have hold : (s.csrRead .mie).getLsbD k =
      (decide (k < s.cfg.xlen.bits) && (s.mie.getLsbD k && (mieMask s.cfg).getLsbD k)) := by
    simp only [State.csrRead, Xlen.getLsbD_norm, State.csrValue, State.mieBits, BitVec.getLsbD_and]
  have hmem : k ∈ [1, 5, 9] ↔ k = 1 ∨ k = 5 ∨ k = 9 := by simp
  rw [hread, hold, getLsbD_midelegMask]
  simp only [hmem]
  by_cases hk : k = 1 ∨ k = 5 ∨ k = 9
  · obtain ⟨hm, hw⟩ := getLsbD_mieMask (s := s) h hk
    have h64 : decide (k < 64) = true := decide_eq_true (by omega)
    rw [hm, hw, h64]
    cases s.mideleg.getLsbD k <;> simp [hk]
  · by_cases h64 : k < 64
    · simp [hk, h64]
    · simp [hk, BitVec.getLsbD_of_ge s.mie k (by omega)]

/-- A write of `mip` sets the three software bits. -/
theorem State.csrWrite_mip (h : s.cfg.modes.hasS = true) :
    s.csrWrite .mip v = { s with ssip := v.getLsbD 1, stip := v.getLsbD 5, seip := v.getLsbD 9 } := by
  have h1 : midelegMask.getLsbD 1 = true := rfl
  have h5 : midelegMask.getLsbD 5 = true := rfl
  have h9 : midelegMask.getLsbD 9 = true := rfl
  simp only [State.csrWrite, State.putMip, h, h1, h5, h9, if_true]

theorem State.csrWrite_sip (h : s.cfg.modes.hasS = true) : s.csrWrite .sip v = { s with
    ssip := if s.mideleg.getLsbD 1 = true ∧ (1 = 1 ∨ s.priv = .m) then v.getLsbD 1 else s.ssip
    stip := if s.mideleg.getLsbD 5 = true ∧ (5 = 1 ∨ s.priv = .m) then v.getLsbD 5 else s.stip
    seip := if s.mideleg.getLsbD 9 = true ∧ (9 = 1 ∨ s.priv = .m) then v.getLsbD 9 else s.seip } := by
  have hmask (k : Nat) (hk : k = 1 ∨ k = 5 ∨ k = 9) :
      s.sipWritable.getLsbD k = true ↔ s.mideleg.getLsbD k = true ∧ (k = 1 ∨ s.priv = .m) := by
    unfold State.sipWritable
    rw [BitVec.getLsbD_and, Bool.and_eq_true]
    refine and_congr_right fun _ => ?_
    by_cases hm : s.priv = .m <;> rcases hk with rfl | rfl | rfl <;> simp [hm]
  simp only [State.csrWrite, State.putMip, h, hmask 1 (by decide), hmask 5 (by decide), hmask 9 (by decide), if_true]

theorem State.getLsbD_mip_mip (h : s.cfg.modes.hasS = true) (k : Nat) :
    ((s.csrWrite .mip v).csrRead .mip).getLsbD k =
      if k = 1 ∨ k = 5 then v.getLsbD k else if k = 9 then v.getLsbD 9 || s.seipLine else (s.csrRead .mip).getLsbD k := by
  rw [s.csrWrite_mip v h]
  have hcode (i : Intr) := State.getLsbD_csrRead_mip { s with ssip := v.getLsbD 1, stip := v.getLsbD 5, seip := v.getLsbD 9 } i
  by_cases h1 : k = 1
  · subst h1
    rw [if_pos (by decide)]
    exact (hcode .supervisorSoftware).trans (by simp [State.pending, h])
  · by_cases h5 : k = 5
    · subst h5
      rw [if_pos (by decide)]
      exact (hcode .supervisorTimer).trans (by simp [State.pending, h])
    · rw [if_neg (by omega)]
      split
      · next h9 =>
        subst h9
        exact (hcode .supervisorExternal).trans (by simp [State.pending, h])
      · next h9 =>
        simp only [State.csrRead, Xlen.getLsbD_norm, State.csrValue, State.mip, getLsbD_intrBits]
        have e1 : ¬ 1 = k := Ne.symm h1
        have e5 : ¬ 5 = k := Ne.symm h5
        have e9 : ¬ 9 = k := Ne.symm h9
        simp [intrPriority, Intr.code, e1, e5, e9, State.pending]

/-! ### PMP addresses -/

theorem State.pmpaddrLocked_iff (i : Nat) : s.pmpaddrLocked i = true ↔
    (s.pmpCfgAt i).toNat / 128 = 1 ∨ (i + 1 < s.cfg.pmpEntries ∧ (s.pmpCfgAt (i + 1)).toNat / 128 = 1) := by
  have hlock (b : BitVec 8) : b.getLsbD 7 = true ↔ b.toNat / 128 = 1 := by
    have hb := b.isLt
    rw [← Bool.not_eq_false, pmpLock_eq_false_iff]
    omega
  simp only [State.pmpaddrLocked, Bool.or_eq_true, Bool.and_eq_true, decide_eq_true_eq, hlock]

theorem pmpaddrMask_toNat (x : Xlen) :
    (v &&& pmpaddrMask x).toNat % 2 ^ x.bits = v.toNat % 2 ^ (if x = .rv32 then 32 else 54) := by
  rw [BitVec.toNat_and]
  cases x
  · rw [show (pmpaddrMask .rv32).toNat = 2 ^ 32 - 1 from rfl, Nat.and_two_pow_sub_one_eq_mod]
    exact Nat.mod_mod _ _
  · rw [show (pmpaddrMask .rv64).toNat = 2 ^ 54 - 1 from rfl, Nat.and_two_pow_sub_one_eq_mod]
    exact Nat.mod_eq_of_lt ((Nat.mod_lt _ (by decide)).trans (by decide))

theorem State.csrWrite_pmpaddr (i : Fin 16) (h : s.pmpaddrLocked i.val = false) : s.csrWrite (.pmpaddr i) v =
    { s with pmpaddr := s.pmpaddr.set i.val (v &&& pmpaddrMask s.cfg.xlen) i.isLt } := by
  simp [State.csrWrite, State.putPmpaddr, h]

end

end Sys2Proof.Machine

namespace Sys2Proof.Proofs
open Sys2Proof.Machine

/-- Settles O35: each register's write and read, as numbers and bit by bit. -/
theorem csrReadBack : Obligations.CsrReadBack := by
  unfold Obligations.CsrReadBack
  intro s v
  dsimp only
  have hlt (w : Word) : (s.cfg.xlen.norm w).toNat < 2 ^ s.width :=
    (Xlen.norm_toNat _ _).trans_lt (Nat.mod_lt _ (Nat.two_pow_pos _))
  have hfflags : v.toNat % 2 ^ s.width % 32 = v.toNat % 32 := s.mod_width_mod v.toNat 5 (by decide)
  have hfrm : v.toNat % 2 ^ s.width % 8 = v.toNat % 8 := s.mod_width_mod v.toNat 3 (by decide)
  have hfcsr : v.toNat % 2 ^ s.width % 256 = v.toNat % 256 := s.mod_width_mod v.toNat 8 (by decide)
  have hsmall {n : Nat} (hn : n < 2 ^ 32) : n % 2 ^ s.width = n :=
    Nat.mod_eq_of_lt (hn.trans_le (Nat.pow_le_pow_right (by decide) s.width_ge))
  refine ⟨?_, ?_, ?_, ?_, ?_, ?_, ?_, ?_, ?_, fun h => ⟨?_, ?_⟩, fun h => ⟨?_, ?_⟩, fun hx h0 h8 => ?_, fun hx hk hm => ?_,
    fun hx hk => ?_, fun hs => ⟨?_, s.getLsbD_mie_sie v hs, s.getLsbD_sie, s.getLsbD_sip, s.getLsbD_mip_mip v hs,
      s.csrWrite_sip v hs⟩, fun i => ?_, fun k => ⟨?_, fun j hj => s.pmpCfgAt_putPmpcfg v k.val hj,
      fun j hj => s.csrRead_pmpcfg_byte k hj⟩,
    s.csrRead_toNat _, s.csrRead_toNat _, s.csrRead_toNat _, fun hx => ⟨?_, ?_, ?_⟩⟩
  · simp only [List.forall_mem_cons]
    have hback (w : Word) (h : w = s.cfg.xlen.norm v) : (s.cfg.xlen.norm w).toNat = v.toNat % 2 ^ s.width := by
      rw [h, Xlen.norm_norm, Xlen.norm_toNat]
      rfl
    exact ⟨hback _ rfl, hback _ rfl, hback _ rfl, hback _ rfl, hback _ rfl, hback _ rfl, fun _ h => nomatch h⟩
  · exact (State.csrRead_toNat _ _).trans (s.epcOf_epcOf_toNat v)
  · exact (State.csrRead_toNat _ _).trans (s.epcOf_epcOf_toNat v)
  · rw [State.csrRead_toNat, hfflags, ← s.fflags_csrWrite v]
    exact hsmall ((s.csrWrite .fflags v).fflags.isLt.trans (by decide))
  · rw [State.csrRead_toNat, hfrm, ← s.frm_csrWrite v]
    exact hsmall ((s.csrWrite .frm v).frm.isLt.trans (by decide))
  · have hfield : (v.extractLsb' 0 8).toNat = v.toNat % 256 := BitVec.extractLsb'_toNat ..
    rw [State.csrRead_toNat, hfcsr, ← hfield]
    exact hsmall ((v.extractLsb' 0 8).isLt.trans (by decide))
  · exact (State.csrRead_toNat _ _).trans (s.and_mask_toNat v (by decide))
  · exact (State.csrRead_toNat _ _).trans (s.and_mask_toNat v (by decide))
  · have hm : (mieMask s.cfg).toNat = if s.cfg.modes.hasS then 0xaaa else 0x888 := by
      unfold mieMask
      split <;> rfl
    have hmask := s.and_mask_toNat v (m := mieMask s.cfg) (by rw [hm]; split <;> decide)
    have hread : (s.csrWrite .mie v).csrValue .mie = v &&& mieMask s.cfg := by
      change (v &&& mieMask s.cfg) &&& mieMask s.cfg = _
      rw [BitVec.and_assoc, BitVec.and_self]
    rw [State.csrRead_toNat, hread, ← hm, ← hmask]
    rfl
  · exact (State.csrRead_toNat _ _).trans ((Nat.mod_eq_of_lt (s.putTvec_lt v _)).trans (s.putTvec_legal v _ h))
  · exact (State.csrRead_toNat _ _).trans ((Nat.mod_eq_of_lt (s.putTvec_lt v _)).trans (s.putTvec_legal v _ h))
  · exact (State.csrRead_toNat _ _).trans ((Nat.mod_eq_of_lt (s.putTvec_lt v _)).trans (s.putTvec_reserved v _ h))
  · exact (State.csrRead_toNat _ _).trans ((Nat.mod_eq_of_lt (s.putTvec_lt v _)).trans (s.putTvec_reserved v _ h))
  · have hw : s.width = 64 := by rw [State.width, hx]; rfl
    rw [hw, Nat.mod_eq_of_lt v.isLt] at h0 h8
    simp only [State.csrWrite]
    rw [s.putSatp_reserved v hx h0 h8]
  · have hw : s.width = 64 := by rw [State.width, hx]; rfl
    rw [hw, Nat.mod_eq_of_lt v.isLt] at hm ⊢
    have hw' : (s.csrWrite .satp v).width = 64 := hw
    rw [State.csrRead_toNat, ← s.putSatp_rv64 v hx hk hm, hw']
    exact Nat.mod_eq_of_lt (s.putSatp v).isLt
  · have hw : s.width = 32 := by rw [State.width, hx]; rfl
    have hsatp := s.putSatp_rv32 v hx hk
    have hw' : (s.csrWrite .satp v).width = 32 := hw
    rw [State.csrRead_toNat, hw', hw, ← hsatp]
    refine Nat.mod_eq_of_lt ?_
    change (s.putSatp v).toNat < _
    rw [hsatp]
    have hasid : v.toNat % 2 ^ 32 / 2 ^ 22 % 2 ^ s.cfg.asidBits % 2 ^ 9 < 2 ^ 9 := Nat.mod_lt _ (by decide)
    generalize v.toNat % 2 ^ 32 / 2 ^ 22 % 2 ^ s.cfg.asidBits % 2 ^ 9 = n at hasid ⊢
    clear hfflags hfrm hfcsr
    omega
  · intro k
    have hdeleg : (s.csrWrite .sie v).mideleg = s.mideleg := rfl
    rw [State.getLsbD_sie, s.getLsbD_mie_sie v hs, s.getLsbD_sie, hdeleg]
    by_cases hm : s.mideleg.getLsbD k = true
    · simp only [hm, and_true, Bool.and_true]
    · simp [hm]
  · split
    · next h => exact if_pos ((s.pmpaddrLocked_iff _).mpr h)
    · next h =>
      have hopen : s.pmpaddrLocked i.val = false := Bool.eq_false_iff.mpr fun hl => h ((s.pmpaddrLocked_iff _).mp hl)
      rw [s.csrWrite_pmpaddr v i hopen]
      refine ⟨?_, rfl, fun j hj => ?_⟩
      · have hget : (s.pmpaddr.set i.val (v &&& pmpaddrMask s.cfg.xlen) i.isLt).get i = v &&& pmpaddrMask s.cfg.xlen :=
          Vector.getElem_set_self ..
        rw [State.csrRead_toNat]
        simp only [State.csrValue, hget]
        exact pmpaddrMask_toNat v s.cfg.xlen
      · exact Vector.getElem_set_ne i.isLt j.isLt fun h => hj (Fin.ext h.symm)
  · obtain ⟨cs, h⟩ := s.putPmpcfg_eq k.val v
    change s.putPmpcfg k.val v = { s with pmpcfg := (s.putPmpcfg k.val v).pmpcfg }
    rw [h]
  all_goals
    rw [State.csrRead_toNat, State.width, hx]
    refine (congrArg (· % 2 ^ 32) (BitVec.toNat_ushiftRight ..)).trans ?_
    rw [Nat.shiftRight_eq_div_pow]
    refine Nat.mod_eq_of_lt (Nat.div_lt_of_lt_mul ?_)
  · exact s.cycle.isLt
  · exact s.mtime.isLt
  · exact s.instret.isLt

end Sys2Proof.Proofs
end

section
/-!
PROOFS. `mstatus` after a write and `sstatus` as its view (10_state.md rules R46 to R48, R59).
-/

namespace Sys2Proof.Machine

section
variable {s : State} {k : Nat}

theorem getLsbD_bitAt_self (b : Bool) (h : k < 64) : (bitAt b k).getLsbD k = b := by
  cases b
  · exact BitVec.getLsbD_zero
  · have hk : decide (k < 64) = true := decide_eq_true h
    simp [bitAt, BitVec.getLsbD_shiftLeft, hk]

/-- FS holds bits 13 and 14. -/
theorem getLsbD_fsField (c : Config) (h13 : k ≠ 13) (h14 : k ≠ 14) : (fsField c).getLsbD k = false := by
  have hbits : ∀ k < 64, k ≠ 13 → k ≠ 14 → (3#64 <<< 13).getLsbD k = false := by decide
  unfold fsField
  split
  · by_cases hk : k < 64
    · exact hbits k hk h13 h14
    · exact BitVec.getLsbD_of_ge _ _ (by omega)
  · exact BitVec.getLsbD_zero

theorem getLsbD_sdField (c : Config) (h : k < 31) : (sdField c).getLsbD k = false := by
  have hw := Xlen.bits_cases c.xlen
  exact getLsbD_bitAt_of_ne _ (by omega)

/-- MPP holds bits 11 and 12. -/
theorem getLsbD_mppBits (p : Priv) (h : k < 11 ∨ 13 ≤ k) : (p.code.setWidth 64 <<< 11 : Word).getLsbD k = false := by
  rw [BitVec.getLsbD_shiftLeft, BitVec.getLsbD_setWidth]
  rcases h with h | h
  · simp [h]
  · rw [BitVec.getLsbD_of_ge _ _ (by omega)]
    simp

theorem State.getLsbD_read_low (hk : k < 32) (r : Csr) : (s.csrRead r).getLsbD k = (s.csrValue r).getLsbD k := by
  have := Xlen.bits_cases s.cfg.xlen
  rw [State.csrRead, Xlen.getLsbD_norm, decide_eq_true (by omega), Bool.true_and]

/-- The shared fields, in `sstatus` and in `mstatus`. -/
theorem State.getLsbD_sstatus (hk : k ∈ [1, 5, 8, 18, 19]) : (s.csrRead .sstatus).getLsbD k = s.sFields.getLsbD k := by
  simp only [List.mem_cons, List.not_mem_nil, or_false] at hk
  have hfs : (fsField s.cfg).getLsbD k = false := getLsbD_fsField _ (by omega) (by omega)
  rw [State.getLsbD_read_low (by omega)]
  simp only [State.csrValue, State.sstatusWord, BitVec.getLsbD_or, getLsbD_sdField s.cfg (show k < 31 by omega), hfs, Bool.false_or]

theorem State.getLsbD_mstatus (hk : k ∈ [1, 5, 8, 18, 19]) : (s.csrRead .mstatus).getLsbD k = s.sFields.getLsbD k := by
  have hs := State.getLsbD_sstatus (s := s) hk
  simp only [List.mem_cons, List.not_mem_nil, or_false] at hk
  rw [State.getLsbD_read_low (by omega)] at hs ⊢
  simp only [State.csrValue, State.sstatusWord, State.mstatusWord, BitVec.getLsbD_or] at hs ⊢
  rw [hs, getLsbD_mppBits _ (by omega), getLsbD_bitAt_of_ne _ (by omega), getLsbD_bitAt_of_ne _ (by omega), Bool.or_false,
    Bool.or_false, Bool.or_false]

theorem State.sFields_bits (h : s.cfg.modes.hasS = true) :
    s.sFields.getLsbD 1 = s.mstatus.sie ∧ s.sFields.getLsbD 5 = s.mstatus.spie ∧ s.sFields.getLsbD 8 = s.mstatus.spp ∧
      s.sFields.getLsbD 18 = s.mstatus.sum ∧ s.sFields.getLsbD 19 = s.mstatus.mxr := by
  simp (disch := decide) only [State.sFields, h, if_true, BitVec.getLsbD_or, getLsbD_bitAt_of_ne, getLsbD_bitAt_self,
    Bool.or_false, Bool.false_or, and_self]

theorem State.getLsbD_sFields_other (hk : k ∉ [1, 5, 8, 18, 19]) : s.sFields.getLsbD k = false := by
  simp only [List.mem_cons, List.not_mem_nil, or_false, not_or] at hk
  obtain ⟨h1, h5, h8, h18, h19⟩ := hk
  unfold State.sFields
  split
  · simp only [BitVec.getLsbD_or, getLsbD_bitAt_of_ne _ h1, getLsbD_bitAt_of_ne _ h5, getLsbD_bitAt_of_ne _ h8,
      getLsbD_bitAt_of_ne _ h18, getLsbD_bitAt_of_ne _ h19, Bool.or_self]
  · exact BitVec.getLsbD_zero

theorem State.getLsbD_mstatus_mie : (s.csrRead .mstatus).getLsbD 3 = s.mstatus.mie := by
  rw [State.getLsbD_read_low (by decide)]
  simp (disch := decide) only [State.csrValue, State.mstatusWord, BitVec.getLsbD_or, getLsbD_sdField, getLsbD_fsField,
    State.getLsbD_sFields_other, getLsbD_mppBits, getLsbD_bitAt_of_ne, getLsbD_bitAt_self, Bool.or_false, Bool.false_or]

theorem State.getLsbD_mstatus_mpie : (s.csrRead .mstatus).getLsbD 7 = s.mstatus.mpie := by
  rw [State.getLsbD_read_low (by decide)]
  simp (disch := decide) only [State.csrValue, State.mstatusWord, BitVec.getLsbD_or, getLsbD_sdField, getLsbD_fsField,
    State.getLsbD_sFields_other, getLsbD_mppBits, getLsbD_bitAt_of_ne, getLsbD_bitAt_self, Bool.or_false, Bool.false_or]

/-- MPP as it reads. -/
theorem State.mstatus_mpp : (s.csrRead .mstatus).toNat / 2 ^ 11 % 4 = s.mppField.code.toNat := by
  have hfield : (s.csrRead .mstatus).extractLsb' 11 2 = s.mppField.code := by
    refine eq_of_bits fun i hi => ?_
    rw [BitVec.getLsbD_extractLsb', State.getLsbD_read_low (by omega)]
    simp only [State.csrValue, State.mstatusWord, BitVec.getLsbD_or]
    rw [getLsbD_sdField _ (by omega), getLsbD_fsField _ (by omega) (by omega),
      State.getLsbD_sFields_other (by interval_cases i <;> decide), getLsbD_bitAt_of_ne _ (by omega), getLsbD_bitAt_of_ne _ (by omega)]
    cases s.mppField <;> interval_cases i <;> rfl
  rw [← hfield, BitVec.extractLsb'_toNat, Nat.shiftRight_eq_div_pow]

/-- The code in MPP names an implemented mode. -/
theorem privOfCode_eq (modes : Modes) (c : BitVec 2) : privOfCode modes c =
    if c.toNat = 3 then some .m else if c.toNat = 1 ∧ modes.hasS = true then some .s
    else if c.toNat = 0 ∧ modes.hasU = true then some .u else none := by
  have h : ∀ c : BitVec 2, c = 0 ∨ c = 1 ∨ c = 2 ∨ c = 3 := by decide
  unfold privOfCode
  rcases h c with rfl | rfl | rfl | rfl <;> cases modes.hasS <;> cases modes.hasU <;> rfl

/-- What a write gives the shared fields. -/
theorem State.putSFields_fields (h : s.cfg.modes.hasS = true) (v : Word) :
    (s.putSFields v).sie = v.getLsbD 1 ∧ (s.putSFields v).spie = v.getLsbD 5 ∧ (s.putSFields v).spp = v.getLsbD 8 ∧
      (s.putSFields v).sum = v.getLsbD 18 ∧ (s.putSFields v).mxr = v.getLsbD 19 := by
  simp [State.putSFields, h]

/-- `sstatus` shows the shared fields, and as `mstatus` does. -/
theorem State.sstatus_view {w : State} {v : Word} (h : w.cfg.modes.hasS = true →
      w.mstatus.sie = v.getLsbD 1 ∧ w.mstatus.spie = v.getLsbD 5 ∧ w.mstatus.spp = v.getLsbD 8 ∧
      w.mstatus.sum = v.getLsbD 18 ∧ w.mstatus.mxr = v.getLsbD 19) :
    (w.cfg.modes.hasS = true →
      (w.csrRead .sstatus).getLsbD 1 = v.getLsbD 1 ∧ (w.csrRead .sstatus).getLsbD 5 = v.getLsbD 5 ∧
      (w.csrRead .sstatus).getLsbD 8 = v.getLsbD 8 ∧ (w.csrRead .sstatus).getLsbD 18 = v.getLsbD 18 ∧
      (w.csrRead .sstatus).getLsbD 19 = v.getLsbD 19) ∧
    ∀ k ∈ [1, 5, 8, 18, 19], (w.csrRead .sstatus).getLsbD k = (w.csrRead .mstatus).getLsbD k := by
  refine ⟨fun hs => ?_, fun k hk => (State.getLsbD_sstatus hk).trans (State.getLsbD_mstatus hk).symm⟩
  obtain ⟨h1, h5, h8, h18, h19⟩ := h hs
  obtain ⟨f1, f5, f8, f18, f19⟩ := State.sFields_bits hs
  exact ⟨(State.getLsbD_sstatus (by decide)).trans (f1.trans h1), (State.getLsbD_sstatus (by decide)).trans (f5.trans h5),
    (State.getLsbD_sstatus (by decide)).trans (f8.trans h8), (State.getLsbD_sstatus (by decide)).trans (f18.trans h18),
    (State.getLsbD_sstatus (by decide)).trans (f19.trans h19)⟩

/-- A write of `sstatus` leaves the machine's fields. -/
theorem State.putSFields_machine (v : Word) :
    (s.putSFields v).mie = s.mstatus.mie ∧ (s.putSFields v).mpie = s.mstatus.mpie ∧ (s.putSFields v).mpp = s.mstatus.mpp := by
  unfold State.putSFields
  split <;> exact ⟨rfl, rfl, rfl⟩

end

end Sys2Proof.Machine

namespace Sys2Proof.Proofs
open Sys2Proof.Machine

/-- Settles O36: the bits of the two words, read from the fields that the writes set. -/
theorem statusRegisters : Obligations.StatusRegisters := by
  unfold Obligations.StatusRegisters
  intro s v
  dsimp only
  have hcode : (v.extractLsb' 11 2).toNat = v.toNat / 2 ^ 11 % 4 := by
    rw [BitVec.extractLsb'_toNat, Nat.shiftRight_eq_div_pow]
  obtain ⟨hmie, hmpie, hmpp⟩ := s.putSFields_machine v
  refine ⟨State.sstatus_view (w := s.csrWrite .mstatus v) fun hs => s.putSFields_fields hs v,
    State.sstatus_view (w := s.csrWrite .sstatus v) fun hs => s.putSFields_fields hs v,
    State.getLsbD_mstatus_mie, State.getLsbD_mstatus_mpie, fun hlegal hu => ?_, fun hno => ?_, rfl, rfl, hmie, hmpie, hmpp⟩
  · have hfield : (s.csrWrite .mstatus v).mppField =
        (privOfCode s.cfg.modes (v.extractLsb' 11 2)).getD s.mstatus.mpp := if_pos hu
    rw [State.mstatus_mpp, hfield, privOfCode_eq, hcode]
    rcases hlegal with h | ⟨h, hs⟩ | ⟨h, _⟩
    · rw [h]
      rfl
    · rw [h, hs]
      rfl
    · rw [h, hu]
      rfl
  · have hnone : privOfCode s.cfg.modes (v.extractLsb' 11 2) = none := by
      simp only [not_or] at hno
      obtain ⟨hm, hs, hu⟩ := hno
      rw [privOfCode_eq, hcode, if_neg hm, if_neg hs, if_neg hu]
    have hput : (s.csrWrite .mstatus v).mstatus.mpp = s.mstatus.mpp := by
      change (privOfCode s.cfg.modes (v.extractLsb' 11 2)).getD s.mstatus.mpp = _
      rw [hnone]
      rfl
    unfold State.mppField
    rw [hput]
    rfl

end Sys2Proof.Proofs
end

section
/-!
PROOFS. The vector unit (10_state.md rules R64 to R66; 46_v.md rules R574 to R576, R1032): its configuration, the vector
length, and the loop over elements.
-/

namespace Sys2Proof.Machine

section
variable {s : State}

theorem State.vRun_legal (hv : s.cfg.ext.v = true) (body : State) : s.vRun true body = .next (body.retire 4) := by
  simp [State.vRun, hv]

/-! ## The configuration -/

/-- The spec's configuration makes two registers doubles. -/
theorem supportedType_twoF64 {c : Config} (hd : c.ext.d = true) (r : Reg) :
    supportedType c (vtypeOf vcfgTwoF64 r.toNat) =
      if r.toNat < 2 ∧ 0b01111#5 ∈ c.vtypes then some (.float fmtD) else none := by
  have hvtype : vtypeOf vcfgTwoF64 r.toNat = if r.toNat < 2 then 0b01111#5 else 0 := if_pos rfl
  have hmust : mustSupport c 0b01111#5 = false := Bool.and_false _
  have htype : (etypeOf 0b01111#5).filter (EType.allowed c) = some (.float fmtD) := by
    have hallowed : EType.allowed c (.float fmtD) = true := hd
    exact Option.filter_eq_some_iff.mpr ⟨rfl, hallowed⟩
  rw [hvtype]
  by_cases hr : r.toNat < 2
  · simp only [hr, if_true, true_and, supportedType, hmust, Bool.false_or, htype, List.contains_iff_mem]
  · simp only [hr, if_false, false_and, supportedType]
    exact ite_self _

/-- Two registers of eight bytes each. -/
theorem elementBytes_twoF64 :
    elementBytes (Vector.ofFn fun r : Fin 32 => vtypeOf vcfgTwoF64 r.val).toList = some 16 := by
  decide

/-! ## The loop over elements -/

theorem State.elem_setElem (s : State) (vd r : Reg) (k i : Nat) (v : Word) :
    (s.setElem vd k v).elem r i = if r = vd ∧ i = k then v else s.elem r i := by
  unfold State.elem State.setElem
  dsimp only
  by_cases hr : r = vd
  · subst hr
    have hget : (s.vregs.set r.toNat (cellPut k v (s.vregs.get r.toFin)) r.isLt).get r.toFin =
        cellPut k v (s.vregs.get r.toFin) := Vector.getElem_set_self ..
    rw [hget, cellFind_cellPut]
    by_cases hi : i = k <;> simp [hi]
  · have hget : (s.vregs.set vd.toNat (cellPut k v (s.vregs.get vd.toFin)) vd.isLt).get r.toFin = s.vregs.get r.toFin :=
      Vector.getElem_set_ne _ _ fun h => hr (BitVec.eq_of_toNat_eq h.symm)
    rw [hget]
    simp [hr]

/-- One turn of the loop, for an operation that raises no flag. -/
theorem State.foldl_elements (m : VMask) (vd : Reg) (f : Nat → Word) (is : List Nat) (u : State) :
    let t := is.foldl (fun t i => if s.maskBit m i then (t.setElem vd i (f i)).accrue 0 else t) u
    t = { u with vregs := t.vregs } ∧
      ∀ r i, t.elem r i = if r = vd ∧ i ∈ is ∧ s.maskBit m i = true then f i else u.elem r i := by
  induction is generalizing u with
  | nil => exact ⟨rfl, fun r i => by simp⟩
  | cons k is ih =>
    rw [List.foldl_cons]
    obtain ⟨hframe, helem⟩ := ih (if s.maskBit m k then (u.setElem vd k (f k)).accrue 0 else u)
    generalize is.foldl (fun t i => if s.maskBit m i then (t.setElem vd i (f i)).accrue 0 else t)
      (if s.maskBit m k then (u.setElem vd k (f k)).accrue 0 else u) = t at hframe helem ⊢
    simp only [List.mem_cons]
    cases hk : s.maskBit m k
    · rw [hk] at hframe helem
      refine ⟨hframe, fun r i => (helem r i).trans (if_congr (and_congr_right fun _ => ?_) rfl rfl)⟩
      refine ⟨fun ⟨hi, hm⟩ => ⟨.inr hi, hm⟩, fun ⟨hi, hm⟩ => ⟨hi.resolve_left fun h => ?_, hm⟩⟩
      rw [h, hk] at hm
      cases hm
    · rw [hk, if_pos rfl, State.accrue_zero] at hframe helem
      refine ⟨hframe, fun r i => (helem r i).trans ?_⟩
      rw [State.elem_setElem]
      by_cases hi : r = vd ∧ i = k
      · obtain ⟨rfl, rfl⟩ := hi
        simp [hk]
      · simp only [if_neg hi]
        refine if_congr (and_congr_right fun hr => and_congr_left fun _ => ?_) rfl rfl
        exact ⟨.inr, fun h => h.resolve_left fun hik => hi ⟨hr, hik⟩⟩

/-- What an elementwise operation that raises no flag does. -/
theorem State.elementwise_values (m : VMask) (vd : Reg) (f : Nat → Word) :
    let t := s.elementwise m vd fun i => some (f i, 0)
    t = { s with vregs := t.vregs } ∧
      ∀ r i, t.elem r i = if r = vd ∧ i < s.vl ∧ s.maskBit m i = true then f i else s.elem r i := by
  obtain ⟨hframe, helem⟩ := s.foldl_elements m vd f (List.range s.vl) s
  simp only [List.mem_range] at helem
  exact ⟨hframe, helem⟩

/-! ## Signed elements -/

theorem EType.signed_cut_toNat {w : Nat} (hw : w ≤ 64) (v : Word) : ((EType.signed w).cut v).toNat = v.toNat % 2 ^ w :=
  asid_toNat hw v

/-- The integer of an element stands for its bits. -/
theorem EType.signed_int_emod {w : Nat} (v : Word) : (EType.signed w).int v % 2 ^ w = (v.toNat : Int) % 2 ^ w := by
  have hpow : ((2 ^ w : ℕ) : Int) = 2 ^ w := by push_cast; rfl
  simp only [EType.int]
  rw [BitVec.toInt_eq_toNat_bmod, BitVec.toNat_setWidth, ← hpow, Int.bmod_emod, Int.natCast_mod, Int.emod_emod_of_dvd _ (dvd_refl _)]

/-- A sum of integers as an element is the sum modulo the width. -/
theorem EType.signed_ofInt_add {w : Nat} (hw : w ≤ 64) (a b : Word) :
    ((EType.signed w).ofInt ((EType.signed w).int a + (EType.signed w).int b)).toNat = (a.toNat + b.toNat) % 2 ^ w := by
  rw [EType.ofInt, EType.signed_cut_toNat hw, BitVec.toNat_ofInt]
  zify
  rw [Int.toNat_of_nonneg (Int.emod_nonneg _ (by positivity))]
  push_cast
  have hdvd : (2 : Int) ^ w ∣ 18446744073709551616 := pow_dvd_pow 2 hw
  rw [Int.emod_emod_of_dvd _ hdvd, Int.add_emod, EType.signed_int_emod, EType.signed_int_emod, ← Int.add_emod]

/-- No defined integer type is wider than 64 bits. -/
theorem State.etype_signed_le {r : Reg} {w : Nat} (h : s.etype r = some (.signed w)) : w ≤ 64 := by
  unfold State.etype supportedType at h
  split at h
  · obtain ⟨_, hallowed⟩ := Option.filter_eq_some_iff.mp h
    have hw : w ≤ s.cfg.xlen.bits := of_decide_eq_true hallowed
    have hbits := Xlen.bits_cases s.cfg.xlen
    omega
  · cases h

/-- An operand of the type of the result is not converted. -/
theorem State.source_same {r : Reg} {t : EType} (h : s.etype r = some t) (i : Nat) (rm : Rm) :
    s.source (.vec r) i t rm = (t.cut (s.elem r i), 0) := by
  simp [State.source, h, convertElem]

theorem State.operandRounds_same {r : Reg} {t : EType} (h : s.etype r = some t) : s.operandRounds t (.vec r) = false := by
  simp [State.operandRounds, h]

/-- Addition in a signed type is an elementwise operation without flags. -/
theorem State.vadd_signed {vd vs1 vs2 : Reg} {m : VMask} {w : Nat} (hv : s.cfg.ext.v = true) (hm : s.maskOk m = true)
    (hd : s.etype vd = some (.signed w)) (h1 : s.etype vs1 = some (.signed w)) (h2 : s.etype vs2 = some (.signed w)) :
    execV (.vadd vd (.vv vs1 vs2) m) s = .next ((s.elementwise m vd fun i =>
      some ((EType.signed w).ofInt ((EType.signed w).int ((EType.signed w).cut (s.elem vs1 i)) +
        (EType.signed w).int ((EType.signed w).cut (s.elem vs2 i))), 0)).retire 4) := by
  have hlegal : (s.maskOk m && s.operandOk (.vec vs1) && s.operandOk (.vec vs2) && s.operandOk (.vec vs2) &&
      s.elemRmOk ((addOp.rounds && (EType.signed w).isFloat) || s.operandRounds (.signed w) (.vec vs1) ||
        s.operandRounds (.signed w) (.vec vs2) || s.operandRounds (.signed w) (.vec vs2))) = true := by
    rw [State.operandRounds_same h1, State.operandRounds_same h2, hm]
    simp [State.operandOk, h1, h2, EType.isFloat, State.elemRmOk]
  have hop : (fun i => some (s.applyOp (.signed w) (.vec vs1) (.vec vs2) (.vec vs2) i
        fun rm x y z => (EType.signed w).ofIntRes ((EType.signed w).int x + (EType.signed w).int y))) =
      fun i => some ((EType.signed w).ofInt ((EType.signed w).int ((EType.signed w).cut (s.elem vs1 i)) +
        (EType.signed w).int ((EType.signed w).cut (s.elem vs2 i))), 0) := by
    funext i
    simp only [State.applyOp, State.source_same h1, State.source_same h2, EType.ofIntRes, BitVec.or_self]
  rw [← hop]
  change s.vOp addOp vd (.vec vs1) (.vec vs2) (.vec vs2) m = _
  unfold State.vOp
  rw [hd]
  dsimp only
  rw [hlegal]
  exact State.vRun_legal hv _

end

end Sys2Proof.Machine

namespace Sys2Proof.Proofs
open Sys2Proof.Machine

/-- Settles O49: the configuration's registers, and their sixteen bytes. -/
theorem vectorConfigure : Obligations.VectorConfigure := by
  unfold Obligations.VectorConfigure
  intro s rs1 hv hd hx
  have hvalue : s.cfg.xlen.norm (s.getX rs1) = vcfgTwoF64 := by
    apply BitVec.eq_of_toNat_eq
    rw [Xlen.norm_toNat]
    change s.ux rs1 % 2 ^ s.width = _
    rw [hx]
    exact Nat.mod_eq_of_lt (lt_of_lt_of_le (by decide) (Nat.pow_le_pow_right (by decide) s.width_ge))
  have hvtype (r : Reg) : (s.setVcfgd (s.getX rs1)).vtype.get r.toFin = vtypeOf vcfgTwoF64 r.toNat := by
    simp only [State.setVcfgd, hvalue]
    exact Vector.getElem_ofFn ..
  have hpOn (p : PReg) : (s.setVcfgd (s.getX rs1)).vpOn.get p.toFin = false := by
    simp only [State.setVcfgd, hvalue]
    exact Vector.getElem_ofFn ..
  have hmvl : (s.setVcfgd (s.getX rs1)).mvl = s.cfg.vbytes / 16 := by
    simp only [State.mvl, State.setVcfgd, hvalue, elementBytes_twoF64]
    rfl
  have hpc : (s.setVcfgd (s.getX rs1)).fromPc 4 = s.fromPc 4 := rfl
  have hcfg : (s.setVcfgd (s.getX rs1)).cfg = s.cfg := rfl
  have hux (r : Reg) : (s.setVcfgd (s.getX rs1)).ux r = s.ux r := rfl
  have hmem : (s.setVcfgd (s.getX rs1)).mem = s.mem := rfl
  have hvl : (s.setVcfgd (s.getX rs1)).vl = s.vl := rfl
  have hrun : execV (.vsetdcfg rs1) s = .next ((s.setVcfgd (s.getX rs1)).retire 4) := State.vRun_legal hv _
  generalize s.setVcfgd (s.getX rs1) = u at *
  refine ⟨_, hrun, hpc ▸ u.pcPlus_toNat 4, fun r => ?_, hpOn, hmvl, hux, fun a => congrArg (Memory.read · a) hmem, hvl⟩
  change supportedType u.cfg (u.vtype.get r.toFin) = _
  rw [hcfg, hvtype, supportedType_twoF64 hd]

/-- Settles O50: the smaller of the two fits XLEN bits. -/
theorem vectorSetLength : Obligations.VectorSetLength := by
  unfold Obligations.VectorSetLength
  intro s rd rs1 hv
  have hn : min (s.ux rs1) s.mvl < 2 ^ s.width := (Nat.min_le_left _ _).trans_lt (s.ux_lt rs1)
  refine ⟨_, State.vRun_legal hv _, rfl, fun q => ?_, s.pcPlus_toNat 4, rfl⟩
  have hux := State.ux_setX s rd q (BitVec.ofNat 64 (min (s.ux rs1) s.mvl))
  rw [s.ofNat_toNat_of_width hn, Nat.mod_eq_of_lt hn] at hux
  exact hux.trans (if_congr (and_congr_right' eq_comm) rfl rfl)

/-- Settles O51: the loop over elements, and one sum. -/
theorem vectorAdd : Obligations.VectorAdd := by
  unfold Obligations.VectorAdd
  intro s vd vs1 vs2 m w hv hm hd h1 h2
  obtain ⟨hframe, helem⟩ := s.elementwise_values m vd fun i =>
    (EType.signed w).ofInt ((EType.signed w).int ((EType.signed w).cut (s.elem vs1 i)) +
        (EType.signed w).int ((EType.signed w).cut (s.elem vs2 i)))
  refine ⟨_, State.vadd_signed hv hm hd h1 h2, fun r i => ?_, ?_, ?_⟩
  · have hw := State.etype_signed_le hd
    refine (congrArg BitVec.toNat (helem r i)).trans ?_
    rw [apply_ite BitVec.toNat, EType.signed_ofInt_add hw, EType.signed_cut_toNat hw, EType.signed_cut_toNat hw, ← Nat.add_mod]
  · rw [hframe]
    exact s.pcPlus_toNat 4
  · rw [hframe]
    rfl

end Sys2Proof.Proofs
end

section
/-!
PROOFS. The memory-mapped registers under loads and stores, their bits of `mip`, and devices that the spec does not describe
(60_exceptions.md rules R745 to R747; 20_memory.md rule R113).
-/

namespace Sys2Proof.Machine

/-! ## Halves -/

theorem low_toNat (w : Word) : (w.extractLsb' 0 32).toNat = w.toNat % 2 ^ 32 := BitVec.extractLsb'_toNat ..

theorem high_toNat (w : Word) : (w.extractLsb' 32 32).toNat = w.toNat / 2 ^ 32 := by
  have hw := w.isLt
  rw [BitVec.extractLsb'_toNat, Nat.shiftRight_eq_div_pow]
  omega

theorem low_setWidth_toNat (w : Word) : ((w.extractLsb' 0 32).setWidth 64).toNat = w.toNat % 2 ^ 32 :=
  (BitVec.toNat_setWidth_of_le (by decide)).trans (low_toNat w)

theorem high_setWidth_toNat (w : Word) : ((w.extractLsb' 32 32).setWidth 64).toNat = w.toNat / 2 ^ 32 :=
  (BitVec.toNat_setWidth_of_le (by decide)).trans (high_toNat w)

theorem low_lt (v : Nat) : v % 2 ^ 32 < 256 ^ 4 := Nat.mod_lt _ (by decide)

theorem high_lt (w : Word) : w.toNat / 2 ^ 32 < 256 ^ 4 := by
  have hw := w.isLt
  omega

/-- A store of the low half keeps the high one. -/
theorem putLow_toNat (w v : Word) : (w.extractLsb' 32 32 ++ v.extractLsb' 0 32).toNat = w.toNat / 2 ^ 32 * 2 ^ 32 + v.toNat % 2 ^ 32 := by
  rw [append_toNat, high_toNat, low_toNat]

/-- A store of the high half keeps the low one. -/
theorem putHigh_toNat (w v : Word) : (v.extractLsb' 0 32 ++ w.extractLsb' 0 32).toNat = v.toNat % 2 ^ 32 * 2 ^ 32 + w.toNat % 2 ^ 32 := by
  rw [append_toNat, low_toNat, low_toNat]

theorem msip_toNat (b : Bool) : (if b then 1 else 0 : Word).toNat = if b then 1 else 0 := by cases b <;> rfl

theorem msip_bit (v : Word) : v.getLsbD 0 = decide (v.toNat % 2 = 1) := by
  rw [BitVec.getLsbD, Nat.testBit_zero]

/-! ## Loads and stores of the registers -/

/-- An access of `n` bytes at `va` is let through by translation and PMP to the physical address `pa`, in the state `u`. -/
def State.Reaches (s : State) (t : Access) (n va pa : Nat) (u : State) : Prop :=
  va % n = 0 ∧ s.translate s.priv t (BitVec.ofNat 64 va) = .ok (u, pa) ∧ u.pmpOk pa n t s.priv = true

/-- A load of the register that answers at `pa` reads `value` of the state after the translation. -/
def LoadsRegister (i : Instr) (s : State) (len n va : Nat) (rd : Reg) (extend : Nat → Nat) (pa : Nat)
    (value : State → Nat) : Prop :=
  ∀ u, s.Reaches .load n va pa u →
    CompletesIn i s u { Effect.nothing (s.fromPc len) with x := some (rd, extend (value u)) }

/-- A store to the register that answers at `pa` leaves the three registers at `new`. -/
def StoresRegister (i : Instr) (s : State) (len n va pa : Nat) (new : Nat × Nat × Bool) : Prop :=
  ∀ u, s.Reaches .store n va pa u →
    ∃ t, exec i s = .next t ∧ (t.mtime.toNat, t.mtimecmp.toNat, t.msip) = new ∧ t.pc.toNat = s.fromPc len ∧
      (let hit : Prop := ∃ v k, u.reservation = some v ∧ k < n ∧ v.addr ≤ pa + k ∧ pa + k < v.addr + v.size
       (hit → t.reservation = none) ∧ (¬ hit → t.reservation = u.reservation)) ∧
      t = { u with mtime := t.mtime, mtimecmp := t.mtimecmp, msip := t.msip, reservation := t.reservation, pc := t.pc,
                   instret := u.instret + 1 }

section
variable {i : Instr} {s : State} {rd : Reg} {a : Word} {n len va pa : Nat} {d : DevReg}

theorem loadsRegister_of_loadX {ext : Word → Word} {extend : Nat → Nat} {value : State → Nat}
    (h : exec i s = s.loadX rd a n ext (BitVec.ofNat 64 len)) (ha : a.toNat = va) (hd : devReg s.cfg pa n = some d)
    (hvalue : ∀ u : State, (u.devRead d).toNat = value u) (hlt : ∀ u, value u < 256 ^ n)
    (hext : ∀ v : Word, v.toNat < 256 ^ n → (ext v).toNat % 2 ^ s.width = extend v.toNat) :
    LoadsRegister i s len n va rd extend pa value := by
  subst ha
  intro u ⟨hal, ht, hp⟩
  rw [BitVec.ofNat_toNat, BitVec.setWidth_eq] at ht
  obtain ⟨hl, hread⟩ := State.memRead_register hal ht hd hp
  have hw : u.width = s.width := by rw [hl]; rfl
  have hval : (ext (u.devRead d)).toNat % 2 ^ u.width = extend (value u) := by
    rw [hw, hext _ ((hvalue u).trans_lt (hlt u)), hvalue]
  refine ⟨(u.setX rd (ext (u.devRead d))).retire (BitVec.ofNat 64 len), ?_, ?_⟩
  · rw [h, State.loadX, hread]
    rfl
  · have hdid := State.did_writeX u rd (ext (u.devRead d)) len
    rwa [hval, hl.fromPc len] at hdid

/-- A register's write changes the three registers alone. -/
theorem State.devWrite_eq (u : State) (d : DevReg) (v : Word) : u.devWrite d v =
    { u with mtime := (u.devWrite d v).mtime, mtimecmp := (u.devWrite d v).mtimecmp, msip := (u.devWrite d v).msip } := by
  cases d <;> rfl

/-- A store to a byte of the reservation breaks it. -/
theorem keepReservation_iff (r : Option Reservation) (pa n : Nat) :
    let hit : Prop := ∃ v k, r = some v ∧ k < n ∧ v.addr ≤ pa + k ∧ pa + k < v.addr + v.size
    (hit → keepReservation r (addrsFrom pa n) = none) ∧ (¬ hit → keepReservation r (addrsFrom pa n) = r) := by
  dsimp only
  cases hr : r with
  | none => exact ⟨fun _ => rfl, fun _ => rfl⟩
  | some v =>
    rw [keepReservation_some rfl]
    refine ⟨fun ⟨w, k, hv, hk, hlo, hhi⟩ => ?_, fun hno => ?_⟩
    · cases hv
      exact if_pos ⟨pa + k, (mem_addrsFrom _ _ _).mpr ⟨Nat.le_add_right _ _, by omega⟩, hlo, hhi⟩
    · refine if_neg fun ⟨b, hb, hlo, hhi⟩ => hno ⟨v, b - pa, rfl, ?_⟩
      have hb := (mem_addrsFrom _ _ _).mp hb
      omega

theorem storesRegister_of_storeTo {v : Word} {new : Nat × Nat × Bool}
    (h : exec i s = s.storeTo a n v (BitVec.ofNat 64 len)) (ha : a.toNat = va) (hd : devReg s.cfg pa n = some d)
    (hnew : ((s.devWrite d v).mtime.toNat, (s.devWrite d v).mtimecmp.toNat, (s.devWrite d v).msip) = new) :
    StoresRegister i s len n va pa new := by
  subst ha
  intro u ⟨hal, ht, hp⟩
  rw [BitVec.ofNat_toNat, BitVec.setWidth_eq] at ht
  obtain ⟨hl, hwrite⟩ := State.memWrite_register hal ht hd hp v
  have hregs : ((u.devWrite d v).mtime, (u.devWrite d v).mtimecmp, (u.devWrite d v).msip) =
      ((s.devWrite d v).mtime, (s.devWrite d v).mtimecmp, (s.devWrite d v).msip) := by
    rw [hl]
    cases d <;> rfl
  simp only [Prod.mk.injEq] at hregs
  obtain ⟨hm, hc, hi⟩ := hregs
  have hframe := u.devWrite_eq d v
  have hpc : ({ u.devWrite d v with reservation := keepReservation u.reservation (addrsFrom pa n) } : State).pcPlus (BitVec.ofNat 64 len) =
      u.pcPlus (BitVec.ofNat 64 len) := by rw [hframe]; rfl
  have hinstret : (u.devWrite d v).instret = u.instret := by rw [hframe]
  refine ⟨({ u.devWrite d v with reservation := keepReservation u.reservation (addrsFrom pa n) } : State).retire (BitVec.ofNat 64 len),
    ?_, ?_, ?_, keepReservation_iff u.reservation pa n, ?_⟩
  · rw [h, State.storeTo, hwrite]
    rfl
  · rw [← hnew, ← hm, ← hc, ← hi]
    rfl
  · exact (congrArg BitVec.toNat hpc).trans ((u.pcPlus_toNat len).trans (hl.fromPc len))
  · generalize u.devWrite d v = w at *
    rw [hframe]
    rfl

/-! ## A device that the spec does not describe -/

theorem State.locate_device {t : Access} {u : State} (hal : a.toNat % n = 0) (ht : s.translate s.priv t a = .ok (u, pa))
    (hp : u.physOk pa n t s.priv = true) : s.locate t a n = .ok (u, .whole pa) := by
  unfold State.locate State.locateOne
  rw [if_pos hal, ht]
  simp only [hp, if_true]

/-- A store that reaches only devices leaves memory. -/
theorem Memory.writeMain_devices {c : Config} {m : Memory} {as : List Nat} (v : Nat) (h : ∀ b ∈ as, onDevice c b = true) :
    m.writeMain c as v = m := by
  induction as generalizing v with
  | nil => rfl
  | cons b as ih =>
    rw [Memory.writeMain, h b List.mem_cons_self, if_pos rfl]
    exact ih _ fun b' hb' => h b' (List.mem_cons_of_mem b hb')

/-- A load from a device: the value is free, and the draw is counted. -/
theorem State.memRead_device {u : State} (hn : 0 < n) (hal : a.toNat % n = 0)
    (hdev : ∀ k, k < n → inDevice s.cfg (pa + k) = false ∧ onDevice s.cfg (pa + k) = true)
    (ht : s.translate s.priv .load a = .ok (u, pa)) (hp : u.physOk pa n .load s.priv = true) :
    ∃ v, s.memRead a n = .ok ({ u with free := s.free + 1 }, v) := by
  have hl := State.lookedUp_translate ht
  have hc : u.cfg = s.cfg := by rw [hl]
  have hnone : devReg u.cfg pa n = none := devReg_eq_none hn fun k hk => hc ▸ (hdev k hk).1
  have hany : (addrsFrom pa n).any (onDevice u.cfg) = true :=
    any_addrsFrom.mpr ⟨0, hn, hc ▸ (hdev 0 hn).2⟩
  have hfree : u.free = s.free := by rw [hl]
  have hdone : u.readDone (.whole pa) n = { u with free := s.free + 1 } := by
    simp only [State.readDone, Place.dev, Place.addrs, hnone, hany, hfree, Option.isNone_none, Bool.and_self, if_true]
  exact ⟨u.readPlace (.whole pa) n, by rw [State.memRead, State.locate_device hal ht hp, ← hdone]⟩

theorem State.memWrite_device {u : State} (hn : 0 < n) (hal : a.toNat % n = 0)
    (hdev : ∀ k, k < n → inDevice s.cfg (pa + k) = false ∧ onDevice s.cfg (pa + k) = true)
    (ht : s.translate s.priv .store a = .ok (u, pa)) (hp : u.physOk pa n .store s.priv = true) (v : Word) :
    ∃ t, s.memWrite a n v = .ok t ∧ t = { u with staleFetch := t.staleFetch, reservation := t.reservation } := by
  have hc : u.cfg = s.cfg := by rw [State.lookedUp_translate ht]
  have hnone : devReg u.cfg pa n = none := devReg_eq_none hn fun k hk => hc ▸ (hdev k hk).1
  have hmem : u.mem.writeMain u.cfg (addrsFrom pa n) v.toNat = u.mem := by
    refine Memory.writeMain_devices _ fun b hb => ?_
    obtain ⟨hlo, hhi⟩ := (mem_addrsFrom _ _ _).mp hb
    have hsub : pa + (b - pa) = b := by omega
    exact hsub ▸ hc ▸ (hdev (b - pa) (by omega)).2
  refine ⟨u.storeBytes (addrsFrom pa n) v.toNat, ?_, ?_⟩
  · rw [State.memWrite, State.locate_device hal ht hp]
    simp only [State.writePlace, Place.dev, hnone, Place.addrs]
  · simp only [State.storeBytes, hmem]

end

end Sys2Proof.Machine

namespace Sys2Proof.Proofs
open Sys2Proof.Machine

section
variable {s : State} {pa : Nat} {d : DevReg} {value : State → Nat}

/-- The four loads of four bytes. -/
theorem reads_four (r rs1 : Reg) (imm : BitVec 12) (r' rs1' : CReg) (u5 : BitVec 5) (u6 : BitVec 6)
    (hd : devReg s.cfg pa 4 = some d) (hvalue : ∀ u : State, (u.devRead d).toNat = value u) (hlt : ∀ u, value u < 256 ^ 4) :
    LoadsRegister (.lw r rs1 imm) s 4 4 (s.eaOf rs1 imm.toInt) r s.ofW pa value ∧
    LoadsRegister (.lwu r rs1 imm) s 4 4 (s.eaOf rs1 imm.toInt) r (fun v => v) pa value ∧
    LoadsRegister (.cLw r' rs1' u5) s 2 4 (s.eaOf rs1'.reg (u5.toNat * (4 : Nat))) r'.reg s.ofW pa value ∧
    LoadsRegister (.cLwsp r u6) s 2 4 (s.eaOf 2 (u6.toNat * (4 : Nat))) r s.ofW pa value := by
  have hword (v : Word) (hv : v.toNat < 256 ^ 4) : (sext32 v).toNat % 2 ^ s.width = s.ofW v.toNat :=
    s.signExtend_setWidth_mod (by decide) hv
  exact ⟨loadsRegister_of_loadX rfl (s.eaImm_toNat rs1 imm) hd hvalue hlt hword,
    loadsRegister_of_loadX rfl (s.eaImm_toNat rs1 imm) hd hvalue hlt fun v hv => s.mod_width_of_lt (n := 32) hv (by decide),
    loadsRegister_of_loadX rfl (s.ea_scaled rs1'.reg u5 2 (by decide)) hd hvalue hlt hword,
    loadsRegister_of_loadX rfl (s.ea_scaled 2 u6 2 (by decide)) hd hvalue hlt hword⟩

/-- The three loads of eight bytes. -/
theorem reads_eight (r rs1 : Reg) (imm : BitVec 12) (r' rs1' : CReg) (u5 : BitVec 5) (u6 : BitVec 6)
    (hd : devReg s.cfg pa 8 = some d) (hvalue : ∀ u : State, (u.devRead d).toNat = value u) (hlt : ∀ u, value u < 256 ^ 8)
    (hx : s.cfg.xlen = .rv64) :
    LoadsRegister (.ld r rs1 imm) s 4 8 (s.eaOf rs1 imm.toInt) r (fun v => v) pa value ∧
    LoadsRegister (.cLd r' rs1' u5) s 2 8 (s.eaOf rs1'.reg (u5.toNat * (8 : Nat))) r'.reg (fun v => v) pa value ∧
    LoadsRegister (.cLdsp r u6) s 2 8 (s.eaOf 2 (u6.toNat * (8 : Nat))) r (fun v => v) pa value := by
  have hid (v : Word) (hv : v.toNat < 256 ^ 8) : (id v).toNat % 2 ^ s.width = v.toNat := by
    rw [State.width, hx]
    exact Nat.mod_eq_of_lt hv
  exact ⟨loadsRegister_of_loadX rfl (s.eaImm_toNat rs1 imm) hd hvalue hlt hid,
    loadsRegister_of_loadX rfl (s.ea_scaled rs1'.reg u5 3 (by decide)) hd hvalue hlt hid,
    loadsRegister_of_loadX rfl (s.ea_scaled 2 u6 3 (by decide)) hd hvalue hlt hid⟩

/-- The three stores of four bytes. -/
theorem writes_four (r rs1 : Reg) (imm : BitVec 12) (r' rs1' : CReg) (u5 : BitVec 5) (u6 : BitVec 6)
    {new : Nat → Nat × Nat × Bool} (hd : devReg s.cfg pa 4 = some d)
    (hnew : ∀ v, ((s.devWrite d v).mtime.toNat, (s.devWrite d v).mtimecmp.toNat, (s.devWrite d v).msip) = new v.toNat) :
    StoresRegister (.sw r rs1 imm) s 4 4 (s.eaOf rs1 imm.toInt) pa (new (s.ux r)) ∧
    StoresRegister (.cSw r' rs1' u5) s 2 4 (s.eaOf rs1'.reg (u5.toNat * (4 : Nat))) pa (new (s.ux r'.reg)) ∧
    StoresRegister (.cSwsp r u6) s 2 4 (s.eaOf 2 (u6.toNat * (4 : Nat))) pa (new (s.ux r)) :=
  ⟨storesRegister_of_storeTo rfl (s.eaImm_toNat rs1 imm) hd (hnew _),
    storesRegister_of_storeTo rfl (s.ea_scaled rs1'.reg u5 2 (by decide)) hd (hnew _),
    storesRegister_of_storeTo rfl (s.ea_scaled 2 u6 2 (by decide)) hd (hnew _)⟩

/-- The three stores of eight bytes. -/
theorem writes_eight (r rs1 : Reg) (imm : BitVec 12) (r' rs1' : CReg) (u5 : BitVec 5) (u6 : BitVec 6)
    {new : Nat → Nat × Nat × Bool} (hd : devReg s.cfg pa 8 = some d)
    (hnew : ∀ v, ((s.devWrite d v).mtime.toNat, (s.devWrite d v).mtimecmp.toNat, (s.devWrite d v).msip) = new v.toNat) :
    StoresRegister (.sd r rs1 imm) s 4 8 (s.eaOf rs1 imm.toInt) pa (new (s.ux r)) ∧
    StoresRegister (.cSd r' rs1' u5) s 2 8 (s.eaOf rs1'.reg (u5.toNat * (8 : Nat))) pa (new (s.ux r'.reg)) ∧
    StoresRegister (.cSdsp r u6) s 2 8 (s.eaOf 2 (u6.toNat * (8 : Nat))) pa (new (s.ux r)) :=
  ⟨storesRegister_of_storeTo rfl (s.eaImm_toNat rs1 imm) hd (hnew _),
    storesRegister_of_storeTo rfl (s.ea_scaled rs1'.reg u5 3 (by decide)) hd (hnew _),
    storesRegister_of_storeTo rfl (s.ea_scaled 2 u6 3 (by decide)) hd (hnew _)⟩

end

/-- Settles O28: each access reaches the one register that answers at its address, or a device of which nothing is known. -/
theorem timerRegisters : Obligations.TimerRegisters := by
  unfold Obligations.TimerRegisters
  refine ⟨?_, ?_, fun s => ⟨?_, ?_, ?_⟩⟩
  · intro s r rs1 imm r' rs1' u5 u6 hapart
    obtain ⟨h8, hlo, hhi, hc8, hclo, hchi, hmsip⟩ := devReg_apart hapart
    have h32 (w : Word) : (w.extractLsb' 32 32 ++ w.extractLsb' 0 32).toNat = w.toNat := by
      rw [append_toNat, high_toNat, low_toNat]
      omega
    exact ⟨⟨reads_four r rs1 imm r' rs1' u5 u6 hlo (fun u => low_setWidth_toNat _) fun u => low_lt _,
        reads_four r rs1 imm r' rs1' u5 u6 hhi (fun u => high_setWidth_toNat _) fun u => high_lt _,
        reads_eight r rs1 imm r' rs1' u5 u6 h8 (fun u => rfl) fun u => u.mtime.isLt⟩,
      ⟨reads_four r rs1 imm r' rs1' u5 u6 hclo (fun u => low_setWidth_toNat _) fun u => low_lt _,
        reads_four r rs1 imm r' rs1' u5 u6 hchi (fun u => high_setWidth_toNat _) fun u => high_lt _,
        reads_eight r rs1 imm r' rs1' u5 u6 hc8 (fun u => rfl) fun u => u.mtimecmp.isLt⟩,
      reads_four r rs1 imm r' rs1' u5 u6 hmsip (fun u => msip_toNat _) fun u => by split <;> decide,
      ⟨writes_four r rs1 imm r' rs1' u5 u6 hlo
          (new := fun v => (s.mtime.toNat / 2 ^ 32 * 2 ^ 32 + v % 2 ^ 32, s.mtimecmp.toNat, s.msip))
          fun v => Prod.ext (putLow_toNat _ _) rfl,
        writes_four r rs1 imm r' rs1' u5 u6 hhi
          (new := fun v => (v % 2 ^ 32 * 2 ^ 32 + s.mtime.toNat % 2 ^ 32, s.mtimecmp.toNat, s.msip))
          fun v => Prod.ext (putHigh_toNat _ _) rfl,
        fun _ => writes_eight r rs1 imm r' rs1' u5 u6 h8 (new := fun v => (v, s.mtimecmp.toNat, s.msip)) fun v => rfl⟩,
      ⟨writes_four r rs1 imm r' rs1' u5 u6 hclo
          (new := fun v => (s.mtime.toNat, s.mtimecmp.toNat / 2 ^ 32 * 2 ^ 32 + v % 2 ^ 32, s.msip))
          fun v => Prod.ext rfl (Prod.ext (putLow_toNat _ _) rfl),
        writes_four r rs1 imm r' rs1' u5 u6 hchi
          (new := fun v => (s.mtime.toNat, v % 2 ^ 32 * 2 ^ 32 + s.mtimecmp.toNat % 2 ^ 32, s.msip))
          fun v => Prod.ext rfl (Prod.ext (putHigh_toNat _ _) rfl),
        fun _ => writes_eight r rs1 imm r' rs1' u5 u6 hc8 (new := fun v => (s.mtime.toNat, v, s.msip)) fun v => rfl⟩,
      writes_four r rs1 imm r' rs1' u5 u6 hmsip (new := fun v => (s.mtime.toNat, s.mtimecmp.toNat, decide (v % 2 = 1)))
        fun v => Prod.ext rfl (Prod.ext rfl (msip_bit v))⟩
  · intro s u r rs1 pa hal hdev
    have hea : (s.eaImm rs1 0).toNat = s.ux rs1 := by
      rw [s.eaImm_toNat]
      exact s.eaOf_zero rs1
    have hword : BitVec.ofNat 64 (s.ux rs1) = s.eaImm rs1 0 := by
      rw [← hea, BitVec.ofNat_toNat, BitVec.setWidth_eq]
    rw [hword]
    rw [← hea] at hal
    refine ⟨fun ht hp => ?_, fun ht hp => ?_⟩
    · have hl := State.lookedUp_translate ht
      obtain ⟨v, hread⟩ := State.memRead_device (by decide) hal hdev ht hp
      have hexec : exec (.lw r rs1 0) s =
          .next ((({ u with free := s.free + 1 } : State).setX r (sext32 v)).retire 4) := by
        change s.loadX r (s.eaImm rs1 0) 4 sext32 4 = _
        rw [State.loadX, hread]
        rfl
      have hinstret : u.instret = s.instret := by rw [hl]
      refine ⟨_, hexec, fun q hq => ?_, ?_, ?_⟩
      · have hu : ({ u with free := s.free + 1 } : State).ux q = s.ux q := by
          unfold State.ux
          rw [State.getX_congr (s := s) (by rw [hl]) (by rw [hl])]
        exact (State.ux_setX _ r q _).trans ((if_neg fun h => hq h.2.symm).trans hu)
      · exact (State.pcPlus_toNat { u with free := s.free + 1 } 4).trans (hl.fromPc 4)
      · simp only [State.retire, State.setX, hinstret]
    · have hl := State.lookedUp_translate ht
      obtain ⟨t, hwrite, hframe⟩ := State.memWrite_device (by decide) hal hdev ht hp (s.getX r)
      have hexec : exec (.sw r rs1 0) s = .next (t.retire 4) := by
        change s.storeTo (s.eaImm rs1 0) 4 (s.getX r) 4 = _
        rw [State.storeTo, hwrite]
        rfl
      have hmem : t.mem = u.mem := by rw [hframe]
      have hpc : t.pcPlus 4 = u.pcPlus 4 := by rw [hframe]; rfl
      have hinstret : u.instret = s.instret := by rw [hl]
      refine ⟨t.retire 4, hexec, ?_, fun b => congrArg (Memory.read · b) hmem, ?_⟩
      · exact (congrArg BitVec.toNat hpc).trans ((u.pcPlus_toNat 4).trans (hl.fromPc 4))
      · rw [hframe]
        simp only [State.retire, hinstret]
  · exact (State.getLsbD_csrRead_mip s .machineTimer).trans rfl
  · exact State.getLsbD_csrRead_mip s .machineSoftware
  · exact State.getLsbD_csrRead_mip s .machineExternal

end Sys2Proof.Proofs
end

section
/-!
PROOFS. What the instructions of F and D do with the operations of the formats (10_state.md rules R30, R31, R33; 44_fd.md rules
R403 to R450; 44_fd_convert.md rules R455 to R482).
-/

namespace Sys2Proof.Machine

/-! ## Operands, modes and results -/

section
variable (s : State)

theorem State.getF32_toNat (r : Reg) : (s.getF32 r).toNat = s.single r := by
  have hF := (s.getF r).isLt
  have hbox : (s.flen64 && (s.getF r).extractLsb' 32 32 != 0xffffffff#32) = true ↔
      s.cfg.ext.d = true ∧ (s.getF r).toNat / 2 ^ 32 ≠ 2 ^ 32 - 1 := by
    rw [Bool.and_eq_true, bne_iff_ne, Ne, ← BitVec.toNat_inj, high_toNat]
    rfl
  unfold State.getF32 State.single
  by_cases h : s.cfg.ext.d = true ∧ (s.getF r).toNat / 2 ^ 32 ≠ 2 ^ 32 - 1
  · rw [if_pos h, if_pos (hbox.mpr h)]
    rfl
  · rw [if_neg h, if_neg (hbox.not.mpr h)]
    exact BitVec.toNat_setWidth ..

theorem State.opS_eq (r : Reg) : s.opS r = s.single r := s.getF32_toNat r

theorem State.single_lt (r : Reg) : s.single r < 2 ^ 32 := s.getF32_toNat r ▸ (s.getF32 r).isLt

/-- The rounding mode that an instruction selects. -/
theorem State.roundingMode_eq (rm : BitVec 3) : s.roundingMode rm = s.modeOf rm := by
  have hcode : ∀ c : BitVec 3, rmOfCode c = [Rm.rne, .rtz, .rdn, .rup, .rmm][c.toNat]? := by decide
  have hseven : rm = 0b111#3 ↔ rm.toNat = 7 := (BitVec.toNat_inj (y := 0b111#3)).symm
  unfold State.roundingMode State.modeOf
  by_cases h : rm.toNat = 7
  · rw [if_pos (hseven.mpr h), if_pos h, hcode, s.frm_toNat]
  · rw [if_neg (hseven.not.mpr h), if_neg h, hcode]

theorem State.box_ofNat (n : Nat) : s.box (BitVec.ofNat 32 n) = s.boxed n := by
  rw [s.box_eq_boxed, BitVec.toNat_ofNat]
  unfold State.boxed
  rw [Nat.mod_mod]

end

section
variable {s : State} {i : Instr} {rd : Reg} {rm : BitVec 3} {flags : BitVec 5}

/-- A single written with its flags. -/
theorem givesF_of_putS {r : FRes} (h : exec i s = .next ((s.putS rd r).retire 4)) : GivesF i s 4 rd (s.boxed r.1) r.2 := by
  have hd := s.did_putF rd (s.boxed r.1) r.2 4 (s.boxed_fits r.1)
  refine ⟨_, h, ?_⟩
  rw [State.putS, State.setF32, s.box_ofNat]
  exact hd

/-- A double written with its flags. -/
theorem givesF_of_putD {r : FRes} (hd : s.cfg.ext.d = true) (h : exec i s = .next ((s.putD rd r).retire 4)) :
    GivesF i s 4 rd (BitVec.ofNat 64 r.1) r.2 :=
  ⟨_, h, s.did_putF rd (BitVec.ofNat 64 r.1) r.2 4 (.inl hd)⟩

/-- An integer written with flags. -/
theorem givesXFlags_of_setX {v : Word} {n : Nat} (h : exec i s = .next (((s.setX rd v).accrue flags).retire 4))
    (hv : v.toNat % 2 ^ s.width = n) : GivesXFlags i s rd n flags :=
  hv ▸ ⟨_, h, s.did_putX rd v flags⟩

theorem givesXFlags_of_putIntW {r : Int × BitVec 5} (h : exec i s = .next ((s.putIntW rd r).retire 4)) :
    GivesXFlags i s rd (s.ofW (wrap 32 r.1)) r.2 := by
  refine givesXFlags_of_setX h ?_
  have hto : (BitVec.ofInt 32 r.1).toNat = wrap 32 r.1 := toNat_ofInt_eq_wrap 32 r.1
  rw [State.sextW, (s.stands_sext (by decide) (BitVec.ofInt 32 r.1)).toNat_mod, ← signed_toNat, hto]
  rfl

theorem givesXFlags_of_putIntL {r : Int × BitVec 5} (h : exec i s = .next ((s.putIntL rd r).retire 4)) :
    GivesXFlags i s rd (wrap s.width r.1) r.2 :=
  givesXFlags_of_setX h (by rw [toNat_ofInt_eq_wrap, wrap_mod_two_pow s.width_le])

theorem givesXFlags_of_putFlag {r : Bool × BitVec 5} (h : exec i s = .next ((s.putFlag rd r).retire 4)) :
    GivesXFlags i s rd (if r.1 then 1 else 0) r.2 :=
  givesXFlags_of_setX h (by rw [ofFlag_toNat, Nat.mod_eq_of_lt (flag_lt s _)])

/-- An instruction with a rounding mode: what it does in each, and illegal where there is none. -/
theorem rounded_modes {op : Rm → State} {P : Rm → Prop} (h : exec i s = s.rounded i rm op)
    (hP : ∀ r, exec i s = .next ((op r).retire 4) → P r) :
    (∀ r, s.modeOf rm = some r → P r) ∧ (s.modeOf rm = none → IsIllegal i s) := by
  rw [← s.roundingMode_eq]
  refine ⟨fun r hr => hP r ?_, fun hnone => isIllegal_of_illegal ?_⟩
  · rw [h, State.rounded, hr]
  · rw [h, State.rounded, hnone]

/-- A result in single precision, in the selected mode. -/
theorem rounds_single {op : Rm → FRes} (h : exec i s = s.rounded i rm fun r => s.putS rd (op r)) :
    (∀ r, s.modeOf rm = some r → GivesF i s 4 rd (s.boxed (op r).1) (op r).2) ∧ (s.modeOf rm = none → IsIllegal i s) :=
  rounded_modes h fun _ => givesF_of_putS

/-- A result in double precision, in the selected mode. -/
theorem rounds_double {op : Rm → FRes} (hd : s.cfg.ext.d = true) (h : exec i s = s.rounded i rm fun r => s.putD rd (op r)) :
    (∀ r, s.modeOf rm = some r → GivesF i s 4 rd (BitVec.ofNat 64 (op r).1) (op r).2) ∧
      (s.modeOf rm = none → IsIllegal i s) :=
  rounded_modes h fun _ => givesF_of_putD hd

/-- An instruction that writes one bit of the low ten. -/
theorem givesX_of_bit {k n : Nat} (h : exec i s = s.writeX rd (1#64 <<< k) 4) (hk : k < 10) (hn : 2 ^ k = n) :
    GivesX i s 4 rd n := by
  subst hn
  refine givesX_of_toNat h ?_ (Nat.pow_lt_pow_right (by decide) (hk.trans_le ((by decide : 10 ≤ 32).trans s.width_ge)))
  rw [BitVec.toNat_shiftLeft, Nat.shiftLeft_eq]
  interval_cases k <;> rfl

theorem rounds_word {op : Rm → Int × BitVec 5} (h : exec i s = s.rounded i rm fun r => s.putIntW rd (op r)) :
    (∀ r, s.modeOf rm = some r → GivesXFlags i s rd (s.ofW (wrap 32 (op r).1)) (op r).2) ∧
      (s.modeOf rm = none → IsIllegal i s) :=
  rounded_modes h fun _ => givesXFlags_of_putIntW

theorem rounds_long {op : Rm → Int × BitVec 5} (h : exec i s = s.rounded i rm fun r => s.putIntL rd (op r)) :
    (∀ r, s.modeOf rm = some r → GivesXFlags i s rd (wrap s.width (op r).1) (op r).2) ∧
      (s.modeOf rm = none → IsIllegal i s) :=
  rounded_modes h fun _ => givesXFlags_of_putIntL

end

/-! ## Signs and classes -/

section
variable {t : FFmt} {a b : Nat}

theorem FFmt.signBit_pos (t : FFmt) : 0 < t.signBit := Nat.two_pow_pos _

theorem FFmt.div_signBit_lt (hb : b < 2 * t.signBit) : b / t.signBit < 2 := Nat.div_lt_of_lt_mul (Nat.mul_comm 2 _ ▸ hb)

/-- The sign of a pattern of the format's width. -/
theorem FFmt.isNeg_eq (hb : b < 2 * t.signBit) : t.isNeg b = decide (b / t.signBit = 1) := by
  have hq := FFmt.div_signBit_lt hb
  rw [FFmt.isNeg, Nat.mod_eq_of_lt hq, beq_eq_decide]

theorem FFmt.sign_eq (t : FFmt) (neg : Bool) (m : Nat) : t.sign neg m = (if neg then 1 else 0) * t.signBit + m := by
  cases neg <;> simp [FFmt.sign]

theorem FFmt.sgnj_eq (hb : b < 2 * t.signBit) : t.sgnj a b = b / t.signBit * t.signBit + a % t.signBit := by
  have hq := FFmt.div_signBit_lt hb
  rw [FFmt.sgnj, FFmt.sign_eq, FFmt.isNeg_eq hb, FFmt.mag]
  generalize b / t.signBit = q at *
  interval_cases q <;> rfl

theorem FFmt.sgnjn_eq (hb : b < 2 * t.signBit) : t.sgnjn a b = (1 - b / t.signBit) * t.signBit + a % t.signBit := by
  have hq := FFmt.div_signBit_lt hb
  rw [FFmt.sgnjn, FFmt.sign_eq, FFmt.isNeg_eq hb, FFmt.mag]
  generalize b / t.signBit = q at *
  interval_cases q <;> rfl

theorem FFmt.sgnjx_eq (ha : a < 2 * t.signBit) (hb : b < 2 * t.signBit) :
    t.sgnjx a b = (a / t.signBit + b / t.signBit) % 2 * t.signBit + a % t.signBit := by
  have hp := FFmt.div_signBit_lt ha
  have hq := FFmt.div_signBit_lt hb
  rw [FFmt.sgnjx, FFmt.sign_eq, FFmt.isNeg_eq ha, FFmt.isNeg_eq hb, FFmt.mag]
  generalize a / t.signBit = p at *
  generalize b / t.signBit = q at *
  interval_cases p <;> interval_cases q <;> rfl

theorem FFmt.classBit_lt (t : FFmt) (b : Nat) : t.classBit b < 10 := by
  unfold FFmt.classBit
  have hk : (if t.mag b = t.infBits then 3 else if t.mag b = 0 then 0 else if t.mag b < 2 ^ t.fracBits then 1 else 2) ≤ 3 := by
    split_ifs <;> decide
  dsimp only
  split_ifs <;> omega

/-! ### The fields of a magnitude -/

/-- The exponent field. -/
def FFmt.exField (t : FFmt) (b : Nat) : Nat := t.mag b / 2 ^ t.fracBits

/-- The fraction field. -/
def FFmt.fracField (t : FFmt) (b : Nat) : Nat := t.mag b % 2 ^ t.fracBits

theorem FFmt.mag_lt (t : FFmt) (b : Nat) : t.mag b < 2 ^ t.expBits * 2 ^ t.fracBits := by
  rw [← pow_add]
  exact Nat.mod_lt _ t.signBit_pos

theorem FFmt.exField_lt (t : FFmt) (b : Nat) : t.exField b < 2 ^ t.expBits :=
  Nat.div_lt_of_lt_mul (Nat.mul_comm _ (2 ^ t.fracBits) ▸ t.mag_lt b)

theorem FFmt.fracField_lt (t : FFmt) (b : Nat) : t.fracField b < 2 ^ t.fracBits := Nat.mod_lt _ (Nat.two_pow_pos _)

theorem FFmt.mag_eq (t : FFmt) (b : Nat) : t.mag b = t.exField b * 2 ^ t.fracBits + t.fracField b := by
  rw [Nat.mul_comm]
  exact (Nat.div_add_mod _ _).symm

theorem FFmt.exField_eq (t : FFmt) (b : Nat) : t.exField b = b / 2 ^ t.fracBits % 2 ^ t.expBits := by
  rw [FFmt.exField, FFmt.mag, FFmt.signBit, pow_add, Nat.mul_comm, Nat.mod_mul_right_div_self]

theorem FFmt.fracField_eq (t : FFmt) (b : Nat) : t.fracField b = b % 2 ^ t.fracBits :=
  Nat.mod_mod_of_dvd _ (pow_dvd_pow 2 (Nat.le_add_left _ _))

/-- With the exponent field all ones, the magnitude is at least infinity. -/
theorem FFmt.infBits_le_mag_iff : t.infBits ≤ t.mag b ↔ t.exField b = 2 ^ t.expBits - 1 := by
  have hex := t.exField_lt b
  rw [FFmt.infBits, ← Nat.le_div_iff_mul_le (Nat.two_pow_pos _)]
  unfold FFmt.exField at *
  omega

theorem FFmt.mag_eq_of_exField (h : t.exField b = 2 ^ t.expBits - 1) : t.mag b = t.infBits + t.fracField b := by
  rw [t.mag_eq, h, FFmt.infBits]

theorem FFmt.mag_eq_infBits_iff : t.mag b = t.infBits ↔ t.exField b = 2 ^ t.expBits - 1 ∧ t.fracField b = 0 := by
  refine ⟨fun h => ?_, fun ⟨hex, hfrac⟩ => by rw [FFmt.mag_eq_of_exField hex, hfrac, Nat.add_zero]⟩
  have hex := FFmt.infBits_le_mag_iff.mp h.ge
  have hmag := FFmt.mag_eq_of_exField hex
  exact ⟨hex, by omega⟩

theorem FFmt.isNan_iff : t.isNan b = true ↔ t.exField b = 2 ^ t.expBits - 1 ∧ t.fracField b ≠ 0 := by
  rw [FFmt.isNan, decide_eq_true_eq]
  refine ⟨fun h => ?_, fun ⟨hex, hfrac⟩ => by have := FFmt.mag_eq_of_exField hex; omega⟩
  have hex := FFmt.infBits_le_mag_iff.mp h.le
  have hmag := FFmt.mag_eq_of_exField hex
  exact ⟨hex, by omega⟩

theorem FFmt.isSnan_iff : t.isSnan b = true ↔ t.isNan b = true ∧ t.fracField b < 2 ^ (t.fracBits - 1) := by
  rw [FFmt.isSnan, Bool.and_eq_true, decide_eq_true_eq]
  refine and_congr_right fun hnan => ?_
  rw [FFmt.mag_eq_of_exField (FFmt.isNan_iff.mp hnan).1, FFmt.qnan, Nat.add_lt_add_iff_left]

theorem FFmt.mag_lt_normal_iff : t.mag b < 2 ^ t.fracBits ↔ t.exField b = 0 := by
  rw [FFmt.exField, Nat.div_eq_zero_iff_lt (Nat.two_pow_pos _)]

theorem FFmt.mag_eq_zero_iff : t.mag b = 0 ↔ t.exField b = 0 ∧ t.fracField b = 0 := by
  refine ⟨fun h => ⟨by rw [FFmt.exField, h, Nat.zero_div], by rw [FFmt.fracField, h, Nat.zero_mod]⟩, fun ⟨hex, hfrac⟩ => ?_⟩
  rw [t.mag_eq, hex, hfrac, Nat.zero_mul]

/-- The class from the exponent and the fraction. -/
theorem FFmt.classBit_eq (he : 1 < t.expBits) (hb : b < 2 * t.signBit) :
    let neg := decide (b / t.signBit = 1)
    let ex := b / 2 ^ t.fracBits % 2 ^ t.expBits
    let frac := b % 2 ^ t.fracBits
    2 ^ t.classBit b =
      if ex = 2 ^ t.expBits - 1 then
        if frac = 0 then (if neg then 2 ^ 0 else 2 ^ 7) else if frac < 2 ^ (t.fracBits - 1) then 2 ^ 8 else 2 ^ 9
      else if ex = 0 then
        if frac = 0 then (if neg then 2 ^ 3 else 2 ^ 4) else (if neg then 2 ^ 2 else 2 ^ 5)
      else (if neg then 2 ^ 1 else 2 ^ 6) := by
  dsimp only
  rw [← t.exField_eq, ← t.fracField_eq, ← FFmt.isNeg_eq hb]
  have htop : 2 ^ t.expBits - 1 ≠ 0 := by
    have := Nat.pow_le_pow_right (n := 2) (by decide) he
    omega
  unfold FFmt.classBit
  by_cases hnan : t.isNan b = true
  · obtain ⟨hex, hfrac⟩ := FFmt.isNan_iff.mp hnan
    rw [if_pos hex, if_neg hfrac]
    by_cases hq : t.fracField b < 2 ^ (t.fracBits - 1)
    · rw [if_pos hq, if_pos (FFmt.isSnan_iff.mpr ⟨hnan, hq⟩)]
    · rw [if_neg hq, if_neg fun h => hq (FFmt.isSnan_iff.mp h).2, if_pos hnan]
  · rw [if_neg fun h => hnan (FFmt.isSnan_iff.mp h).1, if_neg hnan]
    have hinf : t.mag b = t.infBits ↔ t.exField b = 2 ^ t.expBits - 1 := by
      rw [FFmt.mag_eq_infBits_iff, and_iff_left_iff_imp]
      exact fun hex => by_contra fun hfrac => hnan (FFmt.isNan_iff.mpr ⟨hex, hfrac⟩)
    by_cases hex : t.exField b = 2 ^ t.expBits - 1
    · have hfrac := (FFmt.mag_eq_infBits_iff.mp (hinf.mpr hex)).2
      simp only [hinf, hex, if_true, hfrac]
      cases t.isNeg b <;> rfl
    · simp only [hinf, hex, if_false, FFmt.mag_eq_zero_iff, FFmt.mag_lt_normal_iff]
      by_cases h0 : t.exField b = 0
      · by_cases hfrac : t.fracField b = 0 <;> simp only [h0, hfrac] <;> cases t.isNeg b <;> rfl
      · simp only [h0, false_and, if_false]
        cases t.isNeg b <;> rfl

end

end Sys2Proof.Machine

namespace Sys2Proof.Proofs
open Sys2Proof.Machine

/-- Settles O38: each runs in the selected mode, or is illegal. -/
theorem floatArithmetic : Obligations.FloatArithmetic := by
  unfold Obligations.FloatArithmetic
  intro s rd rs1 rs2 rs3 rm
  simp only [← s.opS_eq]
  exact ⟨⟨rounds_single rfl, rounds_single rfl, rounds_single rfl, rounds_single rfl, rounds_single rfl, rounds_single rfl,
      rounds_single rfl, rounds_single rfl, rounds_single rfl⟩,
    fun hd => ⟨rounds_double hd rfl, rounds_double hd rfl, rounds_double hd rfl, rounds_double hd rfl, rounds_double hd rfl,
      rounds_double hd rfl, rounds_double hd rfl, rounds_double hd rfl, rounds_double hd rfl⟩⟩

/-- Settles O41: each conversion in the selected mode, of its operand as a number. -/
theorem floatConversions : Obligations.FloatConversions := by
  unfold Obligations.FloatConversions
  intro s rd rs1 rm
  have hlong : (s.getX rs1).toInt = signed 64 (s.ux rs1) := (signed_toNat (s.getX rs1)).symm
  simp only [← s.opS_eq, ← s.getW_toInt, ← s.getW_toNat, ← hlong]
  exact ⟨⟨rounds_word rfl, rounds_word rfl, rounds_long rfl, rounds_long rfl, rounds_single rfl, rounds_single rfl,
      rounds_single rfl, rounds_single rfl⟩,
    fun hd => ⟨rounds_word rfl, rounds_word rfl, rounds_long rfl, rounds_long rfl, rounds_double hd rfl, rounds_double hd rfl,
      rounds_double hd rfl, rounds_double hd rfl, rounds_single rfl, rounds_double hd rfl⟩⟩

/-- Settles O39: the sign bits as numbers; the other operations are those of the format. -/
theorem floatSignMinCompare : Obligations.FloatSignMinCompare := by
  unfold Obligations.FloatSignMinCompare
  intro s rd rs1 rs2
  have hS (r : Reg) : s.opS r < 2 * fmtS.signBit := s.opS_eq r ▸ s.single_lt r
  have hD (r : Reg) : s.opD r < 2 * fmtD.signBit := (s.getF r).isLt
  simp only [← s.opS_eq]
  refine ⟨⟨?_, ?_, ?_, givesF_of_putS rfl, givesF_of_putS rfl, givesXFlags_of_putFlag rfl, givesXFlags_of_putFlag rfl,
      givesXFlags_of_putFlag rfl⟩,
    fun hd => ⟨?_, ?_, ?_, givesF_of_putD hd rfl, givesF_of_putD hd rfl, givesXFlags_of_putFlag rfl,
      givesXFlags_of_putFlag rfl, givesXFlags_of_putFlag rfl⟩⟩
  · exact FFmt.sgnj_eq (t := fmtS) (hS rs2) ▸ givesF_of_putS (r := (fmtS.sgnj (s.opS rs1) (s.opS rs2), 0)) rfl
  · exact FFmt.sgnjn_eq (t := fmtS) (hS rs2) ▸ givesF_of_putS (r := (fmtS.sgnjn (s.opS rs1) (s.opS rs2), 0)) rfl
  · exact FFmt.sgnjx_eq (t := fmtS) (hS rs1) (hS rs2) ▸ givesF_of_putS (r := (fmtS.sgnjx (s.opS rs1) (s.opS rs2), 0)) rfl
  · exact FFmt.sgnj_eq (t := fmtD) (hD rs2) ▸ givesF_of_putD (r := (fmtD.sgnj (s.opD rs1) (s.opD rs2), 0)) hd rfl
  · exact FFmt.sgnjn_eq (t := fmtD) (hD rs2) ▸ givesF_of_putD (r := (fmtD.sgnjn (s.opD rs1) (s.opD rs2), 0)) hd rfl
  · exact FFmt.sgnjx_eq (t := fmtD) (hD rs1) (hD rs2) ▸ givesF_of_putD (r := (fmtD.sgnjx (s.opD rs1) (s.opD rs2), 0)) hd rfl

/-- Settles O42: a word is sign-extended or boxed. -/
theorem floatMoves : Obligations.FloatMoves := by
  unfold Obligations.FloatMoves
  intro s rd rs1
  refine ⟨givesX_of_sextW rfl (BitVec.toNat_setWidth ..), ?_, givesX_of_writeX rfl rfl, fun hd => ?_⟩
  · refine ⟨_, rfl, ?_⟩
    have hd := s.did_putF rd (s.boxed (s.uw rs1)) 0 4 (s.boxed_fits _)
    rw [State.accrue_zero] at hd
    rw [State.setF32, s.box_eq_boxed, s.getW_toNat]
    exact hd
  · refine ⟨_, rfl, ?_⟩
    have hx : BitVec.ofNat 64 (s.ux rs1) = s.getX rs1 := by rw [State.ux, BitVec.ofNat_toNat, BitVec.setWidth_eq]
    have hput := s.did_putF rd (s.getX rs1) 0 4 (.inl hd)
    rw [State.accrue_zero] at hput
    rw [hx]
    exact hput

/-- Settles O40: the one bit, from the fields of the pattern. -/
theorem floatClassify : Obligations.FloatClassify := by
  unfold Obligations.FloatClassify
  intro s rd rs1
  have hS : s.opS rs1 < 2 * fmtS.signBit := s.opS_eq rs1 ▸ s.single_lt rs1
  have hD : s.opD rs1 < 2 * fmtD.signBit := (s.getF rs1).isLt
  dsimp only
  rw [← s.opS_eq]
  exact ⟨givesX_of_bit rfl (fmtS.classBit_lt _) (FFmt.classBit_eq (t := fmtS) (by decide) hS),
    fun _ => givesX_of_bit rfl (fmtD.classBit_lt _) (FFmt.classBit_eq (t := fmtD) (by decide) hD)⟩

end Sys2Proof.Proofs
end

section
/-!
PROOFS. The numbers of a format: what a pattern stands for, the grid of magnitudes, and order (44_fd.md rules R401, R439, R444).
-/

namespace Sys2Proof.Machine

/-- What the development uses of the two formats. -/
structure FFmt.Good (t : FFmt) : Prop where
  frac : 2 ≤ t.fracBits
  exp : 2 ≤ t.expBits

theorem good_of_mem {t : FFmt} (h : t ∈ floatFormats) : t.Good := by
  simp only [floatFormats, List.mem_cons, List.not_mem_nil, or_false] at h
  rcases h with rfl | rfl <;> exact ⟨by decide, by decide⟩

section
variable {t : FFmt} {a b j k : Nat} {n : Bool}

/-! ## Signs and magnitudes -/

theorem FFmt.infBits_lt (t : FFmt) : t.infBits < t.signBit := by
  rw [FFmt.infBits, FFmt.signBit, pow_add]
  exact Nat.mul_lt_mul_of_pos_right (Nat.sub_lt (Nat.two_pow_pos _) Nat.one_pos) (Nat.two_pow_pos _)

theorem FFmt.infBits_pos (h : t.Good) : 0 < t.infBits := by
  have := Nat.pow_le_pow_right (n := 2) (by decide) h.exp
  exact Nat.mul_pos (by omega) (Nat.two_pow_pos _)

theorem FFmt.mag_sign (hj : j < t.signBit) : t.mag (t.sign n j) = j := by
  unfold FFmt.mag FFmt.sign
  cases n
  · exact Nat.mod_eq_of_lt hj
  · rw [if_pos rfl, Nat.add_mod_left, Nat.mod_eq_of_lt hj]

theorem FFmt.isNeg_sign (hj : j < t.signBit) : t.isNeg (t.sign n j) = n := by
  unfold FFmt.isNeg FFmt.sign
  cases n
  · rw [if_neg (by decide), Nat.div_eq_of_lt hj]
    rfl
  · rw [if_pos rfl, Nat.add_div_left _ t.signBit_pos, Nat.div_eq_of_lt hj]
    rfl

/-! ## The grid of magnitudes -/

/-- Where the magnitudes are multiples of one power of two. -/
theorem FFmt.grid_at (t : FFmt) {c i : Nat} (hi : i ≤ 2 * 2 ^ t.fracBits) (hc : c = 0 ∨ 2 ^ t.fracBits ≤ i) :
    t.grid (c * 2 ^ t.fracBits + i) = (i : ℚ) * 2 ^ (t.qmin + c) := by
  have hF : 0 < 2 ^ t.fracBits := Nat.two_pow_pos _
  unfold FFmt.grid
  generalize 2 ^ t.fracBits = F at *
  have hplace (d r : Nat) (hr : r < F) : (d * F + r) / F = d ∧ (d * F + r) % F = r := by
    rw [Nat.mul_comm]
    exact ⟨by rw [Nat.mul_add_div hF, Nat.div_eq_of_lt hr, Nat.add_zero], by rw [Nat.mul_add_mod, Nat.mod_eq_of_lt hr]⟩
  rcases lt_or_ge i F with hsub | hnormal
  · obtain rfl : c = 0 := hc.resolve_right (by omega)
    rw [Nat.zero_mul, Nat.zero_add, if_pos (Nat.div_eq_of_lt hsub), Nat.cast_zero, add_zero]
  · rcases lt_or_ge i (2 * F) with hlt | hge
    · obtain ⟨hd, hr⟩ := hplace (c + 1) (i - F) (by omega)
      have hj : c * F + i = (c + 1) * F + (i - F) := by rw [Nat.succ_mul]; omega
      rw [hj, hd, hr, if_neg (Nat.succ_ne_zero c), Nat.add_sub_cancel' hnormal, Nat.cast_succ]
      congr 2
      ring
    · obtain rfl : i = 2 * F := by omega
      obtain ⟨hd, hr⟩ := hplace (c + 2) 0 hF
      have hj : c * F + 2 * F = (c + 2) * F + 0 := by ring
      have hexp : t.qmin + ((c + 2 : ℕ) : Int) - 1 = t.qmin + c + 1 := by push_cast; ring
      rw [hj, hd, hr, if_neg (by omega), hexp, zpow_add_one₀ (by norm_num)]
      push_cast
      ring

/-- The place of a magnitude on the grid: below or above the least normal number. -/
theorem exists_grid_place {F : Nat} (hF : 0 < F) (j : Nat) : ∃ c i, j = c * F + i ∧ i < 2 * F ∧ (c = 0 ∨ F ≤ i) := by
  rcases lt_or_ge j F with h | h
  · exact ⟨0, j, by omega, by omega, .inl rfl⟩
  · have hdiv : 1 ≤ j / F := (Nat.one_le_div_iff hF).mpr h
    have hmod := Nat.mod_lt j hF
    have hj := Nat.div_add_mod j F
    refine ⟨j / F - 1, F + j % F, ?_, by omega, .inr (by omega)⟩
    rw [Nat.sub_mul, Nat.one_mul, Nat.mul_comm]
    have : F ≤ F * (j / F) := Nat.le_mul_of_pos_right _ hdiv
    omega

theorem FFmt.grid_strictMono (t : FFmt) : StrictMono t.grid := by
  refine strictMono_nat_of_lt_succ fun j => ?_
  obtain ⟨c, i, rfl, hi, hc⟩ := exists_grid_place (Nat.two_pow_pos t.fracBits) j
  rw [t.grid_at (by omega) hc, Nat.add_assoc, t.grid_at (by omega) (by omega)]
  have hpow : (0 : ℚ) < 2 ^ (t.qmin + c) := by positivity
  push_cast
  nlinarith

theorem FFmt.grid_zero (t : FFmt) : t.grid 0 = 0 := by
  have h := t.grid_at (c := 0) (i := 0) (by omega) (.inl rfl)
  rw [Nat.zero_mul, Nat.cast_zero, zero_mul] at h
  exact h

theorem FFmt.grid_nonneg (t : FFmt) (j : Nat) : 0 ≤ t.grid j := by
  rw [← t.grid_zero]
  exact t.grid_strictMono.monotone (Nat.zero_le j)

/-! ## What a pattern stands for -/

theorem ratOf_neg (n : Bool) (m : Nat) (e : Int) : ratOf n m e = if n then -ratOf false m e else ratOf false m e := by
  cases n <;> simp [ratOf]

/-- A pattern is a NaN, an infinity or a number. -/
inductive FFmt.Pattern (t : FFmt) (b : Nat) : Prop
  | nan (h : t.isNan b = true) (hu : t.unpack b = .nan (t.isSnan b))
  | inf (h : t.isNan b = false) (hs : t.isSnan b = false) (hm : t.mag b = t.infBits) (hu : t.unpack b = .inf (t.isNeg b))
  | fin (h : t.isNan b = false) (hs : t.isSnan b = false) (hm : t.mag b < t.infBits) (m : Nat) (e : Int)
      (hu : t.unpack b = .fin (t.isNeg b) m e) (hv : ratOf false m e = t.grid (t.mag b))

theorem FFmt.unpack_eq (t : FFmt) (b : Nat) : t.unpack b =
    if t.exField b = 2 ^ t.expBits - 1 then
      if t.fracField b = 0 then .inf (t.isNeg b) else .nan (decide (t.fracField b < 2 ^ (t.fracBits - 1)))
    else if t.exField b = 0 then .fin (t.isNeg b) (t.fracField b) t.qmin
    else .fin (t.isNeg b) (2 ^ t.fracBits + t.fracField b) (t.qmin + ((t.exField b - 1 : Nat) : Int)) := rfl

theorem FFmt.pattern (t : FFmt) (b : Nat) : t.Pattern b := by
  by_cases hex : t.exField b = 2 ^ t.expBits - 1
  · by_cases hfrac : t.fracField b = 0
    · have hnan : t.isNan b = false := Bool.eq_false_iff.mpr fun h => (FFmt.isNan_iff.mp h).2 hfrac
      refine .inf hnan (by rw [FFmt.isSnan, hnan, Bool.false_and]) (FFmt.mag_eq_infBits_iff.mpr ⟨hex, hfrac⟩) ?_
      rw [t.unpack_eq, if_pos hex, if_pos hfrac]
    · have hnan := FFmt.isNan_iff.mpr ⟨hex, hfrac⟩
      refine .nan hnan ?_
      have hs : decide (t.fracField b < 2 ^ (t.fracBits - 1)) = t.isSnan b := by
        rw [Bool.eq_iff_iff, decide_eq_true_eq, FFmt.isSnan_iff, and_iff_right hnan]
      rw [t.unpack_eq, if_pos hex, if_neg hfrac, hs]
  · have hnan : t.isNan b = false := Bool.eq_false_iff.mpr fun h => hex (FFmt.isNan_iff.mp h).1
    have hlt : t.mag b < t.infBits := by
      rw [← not_le, FFmt.infBits_le_mag_iff]
      exact hex
    have hs : t.isSnan b = false := by rw [FFmt.isSnan, hnan, Bool.false_and]
    have hu := t.unpack_eq b
    have hfrac := t.fracField_lt b
    rw [if_neg hex] at hu
    by_cases h0 : t.exField b = 0
    · rw [if_pos h0] at hu
      refine .fin hnan hs hlt _ _ hu ?_
      rw [t.mag_eq, h0, t.grid_at (by omega) (.inl rfl)]
      simp [ratOf]
    · rw [if_neg h0] at hu
      refine .fin hnan hs hlt _ _ hu ?_
      obtain ⟨c, hc⟩ := Nat.exists_eq_succ_of_ne_zero h0
      have hmag : t.mag b = c * 2 ^ t.fracBits + (2 ^ t.fracBits + t.fracField b) := by
        rw [t.mag_eq, hc, Nat.succ_mul, Nat.add_assoc]
      rw [hmag, t.grid_at (by omega) (by omega), hc]
      simp [ratOf]

theorem FFmt.unpack_of_inf (h : t.mag b = t.infBits) : t.unpack b = .inf (t.isNeg b) := by
  rcases t.pattern b with ⟨hn, _⟩ | ⟨_, _, _, hu⟩ | ⟨_, _, hm, _⟩
  · exact absurd (of_decide_eq_true hn) (by omega)
  · exact hu
  · omega

theorem FFmt.unpack_inf (t : FFmt) (n : Bool) : t.unpack (t.sign n t.infBits) = .inf n := by
  rw [FFmt.unpack_of_inf (FFmt.mag_sign t.infBits_lt), FFmt.isNeg_sign t.infBits_lt]

theorem FFmt.order_zero (t : FFmt) (n : Bool) : t.order (t.sign n 0) = 0 := by
  rw [FFmt.order, FFmt.mag_sign t.signBit_pos]
  split <;> rfl

theorem FFmt.isNan_zero (t : FFmt) (n : Bool) : t.isNan (t.sign n 0) = false := by
  rw [FFmt.isNan, FFmt.mag_sign t.signBit_pos]
  exact decide_eq_false (Nat.not_lt_zero _)

/-! ## Order -/

/-- The number that an integer of the order stands for. -/
def FFmt.gridInt (t : FFmt) (z : Int) : ℚ := if z < 0 then -t.grid z.natAbs else t.grid z.natAbs

theorem FFmt.gridInt_strictMono (t : FFmt) : StrictMono t.gridInt := by
  intro y z hyz
  have hmono := t.grid_strictMono
  have hnonneg := t.grid_nonneg
  unfold FFmt.gridInt
  split_ifs with hy hz hz
  · exact neg_lt_neg (hmono (by omega))
  · have hpos : 0 < t.grid y.natAbs := t.grid_zero ▸ hmono (by omega)
    linarith [hnonneg z.natAbs]
  · omega
  · exact hmono (by omega)

/-- The number or infinity that an integer of the order stands for. -/
noncomputable def FFmt.extended (t : FFmt) (z : Int) : EReal :=
  if z = t.infBits then ⊤ else if z = -t.infBits then ⊥ else ((t.gridInt z : ℝ) : EReal)

theorem FFmt.extended_strictMonoOn (t : FFmt) : StrictMonoOn t.extended (Set.Icc (-(t.infBits : Int)) t.infBits) := by
  intro y hy z hz hyz
  obtain ⟨hy1, hy2⟩ := hy
  obtain ⟨hz1, hz2⟩ := hz
  unfold FFmt.extended
  have hfin : ((t.gridInt y : ℝ) : EReal) < ((t.gridInt z : ℝ) : EReal) :=
    EReal.coe_lt_coe_iff.mpr (Rat.cast_lt.mpr (t.gridInt_strictMono hyz))
  split_ifs <;> first | omega | exact hfin | exact EReal.coe_lt_top _ | exact EReal.bot_lt_coe _ | exact bot_lt_top

/-- Numbers and infinities, with the order of their patterns. -/
theorem FFmt.order_mem (h : t.isNan b = false) : t.order b ∈ Set.Icc (-(t.infBits : Int)) t.infBits := by
  have hle : t.mag b ≤ t.infBits := not_lt.mp (of_decide_eq_false h)
  unfold FFmt.order
  constructor <;> split <;> omega

theorem FFmt.gridInt_order (t : FFmt) (b : Nat) :
    t.gridInt (t.order b) = if t.isNeg b then -t.grid (t.mag b) else t.grid (t.mag b) := by
  unfold FFmt.gridInt FFmt.order
  cases t.isNeg b
  · simp
  · by_cases h0 : t.mag b = 0
    · simp [h0, t.grid_zero]
    · have hneg : -(t.mag b : Int) < 0 := by omega
      rw [if_pos rfl, if_pos hneg, Int.natAbs_neg, Int.natAbs_natCast, if_pos rfl]

theorem FFmt.standsFor_iff (hinf : 0 < t.infBits) {x : EReal} :
    t.StandsFor b x ↔ t.isNan b = false ∧ x = t.extended (t.order b) := by
  rcases t.pattern b with ⟨h, hu⟩ | ⟨h, hs, hm, hu⟩ | ⟨h, hs, hm, m, e, hu, hv⟩
  · simp [FFmt.StandsFor, hu, h]
  · simp only [FFmt.StandsFor, hu, h, FFmt.order, hm, FFmt.extended, true_and]
    cases t.isNeg b
    · simp
    · have hne : ¬ -(t.infBits : Int) = t.infBits := by omega
      simp [hne]
  · have hz : t.order b ≠ t.infBits ∧ t.order b ≠ -t.infBits := by
      unfold FFmt.order
      constructor <;> split <;> omega
    simp only [FFmt.StandsFor, hu, h, true_and, FFmt.extended]
    rw [if_neg hz.1, if_neg hz.2, ratOf_neg, hv, t.gridInt_order]

theorem FFmt.standsFor_lt_iff (ha : t.isNan a = false) (hb : t.isNan b = false) :
    t.extended (t.order a) < t.extended (t.order b) ↔ t.order a < t.order b :=
  t.extended_strictMonoOn.lt_iff_lt (FFmt.order_mem ha) (FFmt.order_mem hb)

theorem FFmt.standsFor_le_iff (ha : t.isNan a = false) (hb : t.isNan b = false) :
    t.extended (t.order a) ≤ t.extended (t.order b) ↔ t.order a ≤ t.order b :=
  t.extended_strictMonoOn.le_iff_le (FFmt.order_mem ha) (FFmt.order_mem hb)

theorem FFmt.standsFor_eq_iff (ha : t.isNan a = false) (hb : t.isNan b = false) :
    t.extended (t.order a) = t.extended (t.order b) ↔ t.order a = t.order b :=
  t.extended_strictMonoOn.injOn.eq_iff (FFmt.order_mem ha) (FFmt.order_mem hb)

theorem FFmt.isSnan_of_not_nan (h : t.isNan b = false) : t.isSnan b = false := by rw [FFmt.isSnan, h, Bool.false_and]

end

end Sys2Proof.Machine

namespace Sys2Proof.Proofs
open Sys2Proof.Machine

/-- Settles O47: the integer of the order is strictly monotone in what the pattern stands for. -/
theorem floatOrder : Obligations.FloatOrder := by
  unfold Obligations.FloatOrder
  intro f hf a b
  have hinf := FFmt.infBits_pos (good_of_mem hf)
  have hnanP : f.isNan 0 = false := f.isNan_zero false
  have hnanM : f.isNan f.signBit = false := f.isNan_zero true
  have hsP := FFmt.isSnan_of_not_nan hnanP
  have hsM := FFmt.isSnan_of_not_nan hnanM
  have hordP : f.order 0 = 0 := f.order_zero false
  have hordM : f.order f.signBit = 0 := f.order_zero true
  have hnegP : f.isNeg 0 = false := FFmt.isNeg_sign (n := false) f.signBit_pos
  have hnegM : f.isNeg f.signBit = true := FFmt.isNeg_sign (n := true) f.signBit_pos
  refine ⟨fun x y hx hy => ?_, fun h => ⟨_, (FFmt.standsFor_iff hinf).mpr ⟨h, rfl⟩⟩, ?_, ?_, fun x hx => ?_, fun hnan => ?_,
    ⟨fun ha hb => ?_, fun ha hb => ?_⟩, ?_, ?_, ?_, ?_⟩
  · obtain ⟨ha, rfl⟩ := (FFmt.standsFor_iff hinf).mp hx
    obtain ⟨hb, rfl⟩ := (FFmt.standsFor_iff hinf).mp hy
    have hsa := FFmt.isSnan_of_not_nan ha
    have hsb := FFmt.isSnan_of_not_nan hb
    rw [FFmt.standsFor_lt_iff ha hb, FFmt.standsFor_le_iff ha hb, FFmt.standsFor_eq_iff ha hb]
    refine ⟨by simp [FFmt.lt, ha, hb], by simp [FFmt.le, ha, hb], by simp [FFmt.eq, ha, hb], by simp [FFmt.lt, ha, hb, flagIf],
      by simp [FFmt.le, ha, hb, flagIf], by simp [FFmt.eq, hsa, hsb, flagIf], fun h => ?_, ?_, ?_⟩
    · have hne : ¬ f.order a = f.order b := h.ne
      have hne' : ¬ f.order b = f.order a := h.ne'
      simp [FFmt.min, FFmt.max, ha, hb, hsa, hsb, flagIf, h, hne, hne', h.not_gt]
    · simp [FFmt.min, ha, hsa, flagIf]
    · simp [FFmt.max, ha, hsa, flagIf]
  · rw [FFmt.StandsFor, show f.infBits = f.sign false f.infBits from rfl, f.unpack_inf]
    rfl
  · rw [FFmt.StandsFor, f.unpack_inf]
    rfl
  · unfold FFmt.value at hx
    unfold FFmt.StandsFor
    cases hu : f.unpack a <;> rw [hu] at hx <;> cases hx
    rfl
  · rcases hnan with h | h <;> simp [FFmt.lt, FFmt.le, FFmt.eq, h, flagIf, flagNV]
  · simp [FFmt.min, FFmt.max, ha, hb, flagIf, flagNV, Bool.or_comm (f.isSnan b)]
  · simp [FFmt.min, FFmt.max, ha, hb, flagIf, flagNV]
  all_goals simp [FFmt.min, FFmt.max, hnanP, hnanM, hsP, hsM, hordP, hordM, hnegP, hnegM, flagIf]

end Sys2Proof.Proofs
end

section
/-!
PROOFS. NaN operands, invalid operations and infinite operands (44_fd.md rules R401, R402).
-/

namespace Sys2Proof.Machine

/-! ## NaN operands -/

/-- What is taken apart is a NaN. -/
def FVal.isNan : FVal → Bool
  | .nan _ => true
  | .inf _ => false
  | .fin _ _ _ => false

/-- The sign turned where asked. -/
def FVal.turn (b : Bool) (v : FVal) : FVal := if b then v.negate else v

section
variable {t : FFmt} {rm : Rm} {x y z : FVal} {a b c m : Nat} {e : Int} {n k : Bool}

theorem FVal.isNan_turn (b : Bool) (v : FVal) : (v.turn b).isNan = v.isNan := by cases b <;> cases v <;> rfl

theorem FVal.isSignaling_turn (b : Bool) (v : FVal) : (v.turn b).isSignaling = v.isSignaling := by cases b <;> cases v <;> rfl

theorem FVal.turn_inf (b n : Bool) : (FVal.inf n).turn b = .inf (n ^^ b) := by cases b <;> cases n <;> rfl

theorem FVal.turn_fin (b n : Bool) (m : Nat) (e : Int) : (FVal.fin n m e).turn b = .fin (n ^^ b) m e := by
  cases b <;> cases n <;> rfl

theorem FFmt.isNan_unpack (t : FFmt) (b : Nat) : (t.unpack b).isNan = t.isNan b := by
  rcases t.pattern b with ⟨h, hu⟩ | ⟨h, _, _, hu⟩ | ⟨h, _, _, m, e, hu, _⟩ <;> rw [hu, h] <;> rfl

theorem FFmt.isSignaling_unpack (t : FFmt) (b : Nat) : (t.unpack b).isSignaling = t.isSnan b := by
  rcases t.pattern b with ⟨_, hu⟩ | ⟨_, h, _, hu⟩ | ⟨_, h, _, m, e, hu, _⟩ <;> rw [hu]
  · rfl
  · rw [h]; rfl
  · rw [h]; rfl

theorem FFmt.nanRes_eq (t : FFmt) (b : Bool) : t.nanRes b = (t.qnan, if !b then 0 else 0b10000#5) := by cases b <;> rfl

theorem FFmt.addVal_nan (h : x.isNan = true ∨ y.isNan = true) :
    t.addVal rm x y = t.nanRes (x.isSignaling || y.isSignaling) := by
  cases x with
  | nan s => rfl
  | inf n => cases y <;> simp [FVal.isNan] at h; rfl
  | fin n m e => cases y <;> simp [FVal.isNan] at h; rfl

theorem FFmt.mulVal_nan (h : x.isNan = true ∨ y.isNan = true) :
    t.mulVal rm x y = t.nanRes (x.isSignaling || y.isSignaling) := by
  cases x with
  | nan s => rfl
  | inf n => cases y <;> simp [FVal.isNan] at h; rfl
  | fin n m e => cases y <;> simp [FVal.isNan] at h; rfl

theorem FFmt.divVal_nan (h : x.isNan = true ∨ y.isNan = true) :
    t.divVal rm x y = t.nanRes (x.isSignaling || y.isSignaling) := by
  cases x with
  | nan s => rfl
  | inf n => cases y <;> simp [FVal.isNan] at h; rfl
  | fin n m e => cases y <;> simp [FVal.isNan] at h; rfl

/-! ## Infinities and zeros -/

theorem FFmt.unpack_of_nan (h : t.isNan b = true) : t.unpack b = .nan (t.isSnan b) := by
  rcases t.pattern b with ⟨_, hu⟩ | ⟨h', _⟩ | ⟨h', _⟩
  · exact hu
  · exact absurd h (h' ▸ Bool.false_ne_true)
  · exact absurd h (h' ▸ Bool.false_ne_true)

/-- A finite pattern: its number is zero exactly with the magnitude. -/
theorem FFmt.unpack_of_lt (h : t.mag b < t.infBits) :
    ∃ m e, t.unpack b = .fin (t.isNeg b) m e ∧ (m = 0 ↔ t.mag b = 0) ∧ ratOf false m e = t.grid (t.mag b) := by
  rcases t.pattern b with ⟨hn, _⟩ | ⟨_, _, hm, _⟩ | ⟨_, _, _, m, e, hu, hv⟩
  · exact absurd (of_decide_eq_true hn) (by omega)
  · omega
  · refine ⟨m, e, hu, ?_, hv⟩
    have hzero : ratOf false m e = 0 ↔ m = 0 := by
      simp [ratOf, zpow_ne_zero e (two_ne_zero : (2 : ℚ) ≠ 0)]
    rw [← hzero, hv, ← t.grid_zero, t.grid_strictMono.injective.eq_iff]

theorem FFmt.unpack_zero (h : t.Good) (n : Bool) : ∃ e, t.unpack (t.sign n 0) = .fin n 0 e := by
  have hm : t.mag (t.sign n 0) = 0 := FFmt.mag_sign t.signBit_pos
  obtain ⟨m, e, hu, hzero, _⟩ := FFmt.unpack_of_lt (b := t.sign n 0) (hm ▸ FFmt.infBits_pos h)
  rw [hzero.mpr hm, FFmt.isNeg_sign t.signBit_pos] at hu
  exact ⟨e, hu⟩

/-- An infinity and an addend. -/
theorem FFmt.addVal_inf (hz : z.isNan = false) : t.addVal rm (.inf n) z = if z = .inf (!n) then t.nanRes true else t.infRes n := by
  cases z with
  | nan s => cases hz
  | inf k => cases n <;> cases k <;> rfl
  | fin k m e => rfl

/-! ## The fused multiply-adds -/

/-- A zero of either sign. -/
def FVal.IsZero (x : FVal) : Prop := ∃ n e, x = .fin n 0 e

/-- An infinity of either sign. -/
def FVal.IsInf (x : FVal) : Prop := ∃ n, x = .inf n

/-- Zero times infinity. -/
def FVal.ZeroInf (x y : FVal) : Prop := (x.IsZero ∧ y.IsInf) ∨ (x.IsInf ∧ y.IsZero)

theorem FFmt.isZero_iff (hg : t.Good) (b : Bool) : ((t.unpack a).turn b).IsZero ↔ t.mag a = 0 := by
  have hpos := FFmt.infBits_pos hg
  rcases t.pattern a with ⟨h, hu⟩ | ⟨_, _, hm, hu⟩ | ⟨_, _, hm, _⟩
  · have hlt : t.infBits < t.mag a := of_decide_eq_true h
    rw [hu]
    exact ⟨fun ⟨n, e, h⟩ => (by cases b <;> cases h), fun h0 => absurd h0 (by omega)⟩
  · rw [hu, FVal.turn_inf]
    exact ⟨fun ⟨n, e, h⟩ => (by cases h), fun h0 => absurd h0 (by omega)⟩
  · obtain ⟨m, e, hu, hzero, _⟩ := FFmt.unpack_of_lt hm
    rw [hu, FVal.turn_fin, ← hzero]
    exact ⟨fun ⟨n, e, h⟩ => by cases h; rfl, fun h => h ▸ ⟨_, _, rfl⟩⟩

theorem FFmt.isInf_iff (b : Bool) : ((t.unpack a).turn b).IsInf ↔ t.mag a = t.infBits := by
  rcases t.pattern a with ⟨h, hu⟩ | ⟨_, _, hm, hu⟩ | ⟨_, _, hm, m, e, hu, _⟩
  · have hlt : t.infBits < t.mag a := of_decide_eq_true h
    rw [hu]
    exact ⟨fun ⟨n, h⟩ => (by cases b <;> cases h), fun h0 => absurd h0 (by omega)⟩
  · rw [hu, FVal.turn_inf]
    exact ⟨fun _ => hm, fun _ => ⟨_, rfl⟩⟩
  · rw [hu, FVal.turn_fin]
    exact ⟨fun ⟨n, h⟩ => (by cases h), fun h => absurd h hm.ne⟩

theorem FFmt.fmaVal_zeroInf (h : x.ZeroInf y) : t.fmaVal rm x y z = t.nanRes true := by
  rcases h with ⟨⟨n, e, rfl⟩, k, rfl⟩ | ⟨⟨n, rfl⟩, k, e, rfl⟩ <;> rfl

theorem FFmt.fmaVal_nan (h0 : ¬ x.ZeroInf y) (h : x.isNan = true ∨ y.isNan = true ∨ z.isNan = true) :
    t.fmaVal rm x y z = t.nanRes (x.isSignaling || y.isSignaling || z.isSignaling) := by
  cases x with
  | nan s => rfl
  | inf n =>
    cases y with
    | nan s => rfl
    | inf k => exact FFmt.addVal_nan (.inr (by simpa [FVal.isNan] using h))
    | fin k m e =>
      have hm : m ≠ 0 := fun hm => h0 (.inr ⟨⟨n, rfl⟩, k, e, hm ▸ rfl⟩)
      exact (if_neg hm).trans (FFmt.addVal_nan (.inr (by simpa [FVal.isNan] using h)))
  | fin n m e =>
    cases y with
    | nan s => rfl
    | inf k =>
      have hm : m ≠ 0 := fun hm => h0 (.inl ⟨⟨n, e, hm ▸ rfl⟩, k, rfl⟩)
      exact (if_neg hm).trans (FFmt.addVal_nan (.inr (by simpa [FVal.isNan] using h)))
    | fin k m' e' => exact FFmt.addVal_nan (.inr (by simpa [FVal.isNan] using h))

/-- An infinite factor, the other not zero. -/
theorem FFmt.fmaVal_inf (h : (x = .inf n ∧ (y = .inf k ∨ ∃ m e, m ≠ 0 ∧ y = .fin k m e)) ∨
    (y = .inf k ∧ ∃ m e, m ≠ 0 ∧ x = .fin n m e)) (hz : z.isNan = false) :
    t.fmaVal rm x y z = if z = .inf (!(n ^^ k)) then t.nanRes true else t.infRes (n ^^ k) := by
  rw [← FFmt.addVal_inf (rm := rm) hz]
  rcases h with ⟨rfl, rfl | ⟨m, e, hm, rfl⟩⟩ | ⟨rfl, m, e, hm, rfl⟩
  · rfl
  · exact if_neg hm
  · exact if_neg hm

/-- The operands of zero times infinity, as patterns. -/
theorem FFmt.zeroInf_iff (hg : t.Good) (tp : Bool) : ((t.unpack a).turn tp).ZeroInf (t.unpack b) ↔
    (t.mag a = 0 ∧ t.mag b = t.infBits) ∨ (t.mag a = t.infBits ∧ t.mag b = 0) :=
  or_congr (and_congr (FFmt.isZero_iff hg tp) (FFmt.isInf_iff false)) (and_congr (FFmt.isInf_iff tp) (FFmt.isZero_iff hg false))

/-- The four forms at once: the sign of the product turned by `tp`, that of the addend by `ta`. -/
theorem FFmt.fused_spec (hg : t.Good) (tp ta : Bool) :
    let r := t.fmaVal rm ((t.unpack a).turn tp) (t.unpack b) ((t.unpack c).turn ta)
    let zeroInf : Prop := (t.mag a = 0 ∧ t.mag b = t.infBits) ∨ (t.mag a = t.infBits ∧ t.mag b = 0)
    let product := (t.isNeg a ^^ t.isNeg b) ^^ tp
    let addend := t.isNeg c ^^ ta
    (zeroInf → r = (t.qnan, 0b10000#5)) ∧
    (¬ zeroInf → t.isNan a = true ∨ t.isNan b = true ∨ t.isNan c = true →
      r = (t.qnan, if !(t.isSnan a || t.isSnan b || t.isSnan c) then 0 else 0b10000#5)) ∧
    (¬ zeroInf → t.isNan a = false → t.isNan b = false → t.isNan c = false → t.mag a = t.infBits ∨ t.mag b = t.infBits →
      r = if t.mag c = t.infBits ∧ addend ≠ product then (t.qnan, 0b10000#5) else (t.sign product t.infBits, 0)) ∧
    (t.mag a < t.infBits → t.mag b < t.infBits → t.mag c = t.infBits → r = (t.sign addend t.infBits, 0)) := by
  dsimp only
  rw [← FFmt.zeroInf_iff hg tp]
  refine ⟨fun h => FFmt.fmaVal_zeroInf h, fun h0 hnan => ?_, fun h0 ha hb hc hinf => ?_, fun ha hb hc => ?_⟩
  · rw [← t.isNan_unpack a, ← t.isNan_unpack b, ← t.isNan_unpack c, ← FVal.isNan_turn tp, ← FVal.isNan_turn ta (t.unpack c)] at hnan
    rw [FFmt.fmaVal_nan h0 hnan, t.nanRes_eq]
    simp only [FVal.isSignaling_turn, t.isSignaling_unpack]
  · have hz : ((t.unpack c).turn ta).isNan = false := by rw [FVal.isNan_turn, t.isNan_unpack, hc]
    have hproduct : ∃ n k, (n ^^ k) = ((t.isNeg a ^^ t.isNeg b) ^^ tp) ∧
        (((t.unpack a).turn tp = .inf n ∧ (t.unpack b = .inf k ∨ ∃ m e, m ≠ 0 ∧ t.unpack b = .fin k m e)) ∨
        (t.unpack b = .inf k ∧ ∃ m e, m ≠ 0 ∧ (t.unpack a).turn tp = .fin n m e)) := by
      refine ⟨t.isNeg a ^^ tp, t.isNeg b, by cases t.isNeg a <;> cases t.isNeg b <;> cases tp <;> rfl, ?_⟩
      rw [FFmt.zeroInf_iff hg tp] at h0
      have hale : t.mag a ≤ t.infBits := not_lt.mp (of_decide_eq_false ha)
      have hble : t.mag b ≤ t.infBits := not_lt.mp (of_decide_eq_false hb)
      rcases hale.eq_or_lt with hae | hal
      · refine .inl ⟨by rw [FFmt.unpack_of_inf hae, FVal.turn_inf], ?_⟩
        rcases hble.eq_or_lt with hbe | hbl
        · exact .inl (FFmt.unpack_of_inf hbe)
        · obtain ⟨m, e, hu, hzero, _⟩ := FFmt.unpack_of_lt hbl
          exact .inr ⟨m, e, fun hm => h0 (.inr ⟨hae, hzero.mp hm⟩), hu⟩
      · have hbe := hinf.resolve_left hal.ne
        obtain ⟨m, e, hu, hzero, _⟩ := FFmt.unpack_of_lt hal
        exact .inr ⟨FFmt.unpack_of_inf hbe, m, e, fun hm => h0 (.inl ⟨hzero.mp hm, hbe⟩), by rw [hu, FVal.turn_fin]⟩
    obtain ⟨n, k, hnk, hproduct⟩ := hproduct
    rw [FFmt.fmaVal_inf hproduct hz, hnk]
    have hc' : (t.unpack c).turn ta = .inf (!((t.isNeg a ^^ t.isNeg b) ^^ tp)) ↔
        t.mag c = t.infBits ∧ (t.isNeg c ^^ ta) ≠ ((t.isNeg a ^^ t.isNeg b) ^^ tp) := by
      generalize ((t.isNeg a ^^ t.isNeg b) ^^ tp) = p
      by_cases hci : t.mag c = t.infBits
      · rw [FFmt.unpack_of_inf hci, FVal.turn_inf, FVal.inf.injEq]
        cases p <;> simp [hci]
      · exact ⟨fun h => absurd ((FFmt.isInf_iff ta).mp ⟨_, h⟩) hci, fun h => absurd h.1 hci⟩
    exact if_congr hc' rfl rfl
  · obtain ⟨m, e, hua, _⟩ := FFmt.unpack_of_lt ha
    obtain ⟨m', e', hub, _⟩ := FFmt.unpack_of_lt hb
    rw [hua, hub, FFmt.unpack_of_inf hc, FVal.turn_inf, FVal.turn_fin]
    rfl

end

end Sys2Proof.Machine

namespace Sys2Proof.Proofs
open Sys2Proof.Machine

/-- Settles O46: each pattern is a NaN, an infinity or a number, and each operation has an arm for each. -/
theorem floatSpecialOperands : Obligations.FloatSpecialOperands := by
  unfold Obligations.FloatSpecialOperands
  intro f hf rm a b c n k
  have hg := good_of_mem hf
  dsimp only
  have hz := f.unpack_zero hg
  have hi := f.unpack_inf
  refine ⟨fun h => ?_, fun h => ?_, ?_, ?_, ?_, ?_, ?_, ?_, fun h0 hlt => ?_, fun h0 hle hneg => ?_, fun hc => ?_, ?_, ?_, ?_, ?_,
    fun ha => ?_, f.fused_spec hg false false, f.fused_spec hg false true, f.fused_spec hg true false, f.fused_spec hg true true⟩
  · rw [← f.isNan_unpack a, ← f.isNan_unpack b] at h
    have hturn : (f.unpack a).isNan = true ∨ ((f.unpack b).turn true).isNan = true := by rwa [FVal.isNan_turn]
    rw [← f.isSignaling_unpack a, ← f.isSignaling_unpack b, ← f.nanRes_eq]
    exact ⟨FFmt.addVal_nan h, (FFmt.addVal_nan hturn).trans (by rw [FVal.isSignaling_turn]), FFmt.mulVal_nan h, FFmt.divVal_nan h⟩
  · rw [FFmt.sqrt, FFmt.unpack_of_nan h, ← f.nanRes_eq]
    rfl
  · rw [FFmt.add, hi, hi]
    cases n <;> rfl
  · rw [FFmt.sub, hi]
    cases n <;> rfl
  · obtain ⟨e, he⟩ := hz n
    rw [FFmt.mul, he, hi]
    rfl
  · obtain ⟨e, he⟩ := hz k
    rw [FFmt.mul, he, hi]
    rfl
  · obtain ⟨e, he⟩ := hz n
    obtain ⟨e', he'⟩ := hz k
    rw [FFmt.div, he, he']
    rfl
  · rw [FFmt.div, hi, hi]
    rfl
  · obtain ⟨m, e, hu, hzero, _⟩ := FFmt.unpack_of_lt hlt
    obtain ⟨e', he'⟩ := hz k
    rw [FFmt.div, hu, he']
    exact if_neg (hzero.not.mpr h0)
  · rcases hle.eq_or_lt with heq | hlt
    · rw [FFmt.sqrt, FFmt.unpack_of_inf heq, hneg]
      rfl
    · obtain ⟨m, e, hu, hzero, _⟩ := FFmt.unpack_of_lt hlt
      rw [FFmt.sqrt, hu, hneg]
      exact if_neg (hzero.not.mpr h0)
  · obtain ⟨e, he⟩ := hz n
    rw [FFmt.fmadd, he, hi]
    rfl
  · rw [FFmt.add, hi]
    cases n <;> rfl
  · rw [FFmt.sub, hi, hi]
    cases n <;> rfl
  · rw [FFmt.mul, hi, hi]
    rfl
  · exact (congrArg (f.sqrtVal rm) (hi false)).trans rfl
  · obtain ⟨m, e, hu, hzero, _⟩ := FFmt.unpack_of_lt ha
    refine ⟨?_, ?_, ?_, ?_, ?_, ?_, fun h0 => ⟨?_, ?_⟩⟩
    · rw [FFmt.add, hi, hu]
      rfl
    · rw [FFmt.add, hi, hu]
      rfl
    · rw [FFmt.sub, hi, hu]
      rfl
    · rw [FFmt.sub, hi, hu]
      rfl
    · rw [FFmt.div, hi, hu]
      rfl
    · rw [FFmt.div, hi, hu]
      rfl
    · rw [FFmt.mul, hi, hu]
      exact if_neg (hzero.not.mpr h0)
    · rw [FFmt.mul, hi, hu]
      exact if_neg (hzero.not.mpr h0)

end Sys2Proof.Proofs
end

section
/-!
PROOFS. Rounding (10_state.md rule R33; 44_fd.md rules R401, R402): a real number near an exact one, rounded to an integer, and to
the grid of a format.
-/

namespace Sys2Proof.Machine

/-! ## Rounding to an integer -/

/-- The mode rounds a number that lies `r` above the integer `i` up to the next. -/
def Rm.GoesUp (rm : Rm) (neg : Bool) (i : Nat) (r : ℝ) : Prop :=
  match rm with
  | .rne => 1 / 2 < r ∨ (r = 1 / 2 ∧ i % 2 = 1)
  | .rmm => 1 / 2 ≤ r
  | .rtz | .rdn | .rup => rm.upward neg = true ∧ 0 < r

/-- `n` is the real number `w` rounded to an integer in this mode, for a number of this sign. -/
def Rm.RoundsNat (rm : Rm) (neg : Bool) (w : ℝ) (n : Nat) : Prop :=
  ∃ i : Nat, (i : ℝ) ≤ w ∧ w < i + 1 ∧ ((rm.GoesUp neg i (w - i) ∧ n = i + 1) ∨ (¬ rm.GoesUp neg i (w - i) ∧ n = i))

/-- `u` compares with every multiple of `2^p` as `m × 2^e` does. -/
def Near (u : ℝ) (m : Nat) (e p : Int) : Prop :=
  ∀ q, p ≤ q → ∀ n : Nat, (u < n * (2 : ℝ) ^ q ↔ (m : ℝ) * 2 ^ e < n * 2 ^ q) ∧ (u = n * (2 : ℝ) ^ q ↔ (m : ℝ) * 2 ^ e = n * 2 ^ q)

section
variable {rm : Rm} {neg : Bool} {u w : ℝ} {m n n' i k : Nat} {e p q : Int}

theorem two_zpow_pos (q : Int) : (0 : ℝ) < 2 ^ q := by positivity

/-- An integer is not rounded. -/
theorem Rm.not_goesUp_zero : ¬ rm.GoesUp neg i 0 := by
  cases rm <;> simp [Rm.GoesUp]

theorem Rm.RoundsNat.unique (h : rm.RoundsNat neg w n) (h' : rm.RoundsNat neg w n') : n = n' := by
  obtain ⟨i, hi, hi1, hn⟩ := h
  obtain ⟨j, hj, hj1, hn'⟩ := h'
  have hij : i = j := by
    have h1 : (i : ℝ) < j + 1 := hi.trans_lt hj1
    have h2 : (j : ℝ) < i + 1 := hj.trans_lt hi1
    norm_cast at h1 h2
    omega
  subst hij
  rcases hn with ⟨hu, rfl⟩ | ⟨hu, rfl⟩ <;> rcases hn' with ⟨hu', rfl⟩ | ⟨hu', rfl⟩
  · rfl
  · exact absurd hu hu'
  · exact absurd hu' hu
  · rfl

theorem Rm.roundsNat_natCast (rm : Rm) (neg : Bool) (i : Nat) : rm.RoundsNat neg i i :=
  ⟨i, le_rfl, lt_add_one _, .inr ⟨by rw [sub_self]; exact Rm.not_goesUp_zero, rfl⟩⟩

theorem near_exact (h : u = m * (2 : ℝ) ^ e) (p : Int) : Near u m e p := by
  intro q _ n
  rw [h]
  exact ⟨Iff.rfl, Iff.rfl⟩

theorem Near.mono {p' : Int} (h : Near u m e p) (hp : p ≤ p') : Near u m e p' := fun q hq => h q (hp.trans hq)

/-- An odd multiple of `2^e` stands for every number strictly between its neighbours. -/
theorem near_sticky (hm : m % 2 = 1) (hlo : ((m : ℝ) - 1) * 2 ^ e < u) (hhi : u < ((m : ℝ) + 1) * 2 ^ e) :
    Near u m e (e + 1) := by
  intro q hq n
  obtain ⟨d, rfl⟩ : ∃ d : Nat, q = e + 1 + d := ⟨(q - (e + 1)).toNat, by omega⟩
  have hpos := two_zpow_pos e
  have hscale : (n : ℝ) * 2 ^ (e + 1 + (d : Int)) = ((2 * (n * 2 ^ d) : Nat) : ℝ) * 2 ^ e := by
    rw [zpow_add₀ (by norm_num), zpow_add_one₀ (by norm_num), zpow_natCast]
    push_cast
    ring
  rw [hscale]
  generalize n * 2 ^ d = N
  rcases lt_or_ge m (2 * N) with h | h
  · have h1 : (m : ℝ) + 1 ≤ (2 * N : Nat) := by exact_mod_cast h
    have hu : u < (2 * N : Nat) * (2 : ℝ) ^ e := hhi.trans_le (mul_le_mul_of_nonneg_right h1 hpos.le)
    have hm' : (m : ℝ) * 2 ^ e < (2 * N : Nat) * (2 : ℝ) ^ e := mul_lt_mul_of_pos_right (by exact_mod_cast h) hpos
    exact ⟨iff_of_true hu hm', iff_of_false hu.ne hm'.ne⟩
  · have h' : 2 * N + 1 ≤ m := by omega
    have h1 : ((2 * N : Nat) : ℝ) ≤ (m : ℝ) - 1 := by
      have : ((2 * N + 1 : Nat) : ℝ) ≤ m := by exact_mod_cast h'
      push_cast at this ⊢
      linarith
    have hu : (2 * N : Nat) * (2 : ℝ) ^ e < u := (mul_le_mul_of_nonneg_right h1 hpos.le).trans_lt hlo
    have hm' : (2 * N : Nat) * (2 : ℝ) ^ e < (m : ℝ) * 2 ^ e := mul_lt_mul_of_pos_right (by linarith) hpos
    exact ⟨iff_of_false hu.not_gt hm'.not_gt, iff_of_false hu.ne' hm'.ne'⟩

/-- Comparisons of `m × 2^e` with multiples of a power of two at least `2^e`, as natural numbers. -/
theorem Near.lt_iff (h : Near u m e p) (k : Nat) (hk : p ≤ e + k) (n : Nat) :
    u < n * (2 : ℝ) ^ (e + k) ↔ m < n * 2 ^ k := by
  rw [(h _ hk n).1, zpow_add₀ (by norm_num), zpow_natCast, mul_left_comm, mul_comm (m : ℝ), mul_lt_mul_iff_right₀ (two_zpow_pos e)]
  exact_mod_cast Iff.rfl

theorem Near.eq_iff (h : Near u m e p) (k : Nat) (hk : p ≤ e + k) (n : Nat) :
    u = n * (2 : ℝ) ^ (e + k) ↔ m = n * 2 ^ k := by
  rw [(h _ hk n).2, zpow_add₀ (by norm_num), zpow_natCast, mul_left_comm, mul_comm (m : ℝ), mul_right_inj' (two_zpow_pos e).ne']
  exact_mod_cast Iff.rfl

/-- The position of a number between two integers, by the remainder `r` of a division by `2^(k+1)`. -/
theorem Near.place (h : Near u m e p) (hp : p ≤ e + k) :
    let i := m / 2 ^ (k + 1)
    let r := m % 2 ^ (k + 1)
    let w := u / (2 : ℝ) ^ (e + (k + 1 : Nat))
    (i : ℝ) ≤ w ∧ w < i + 1 ∧ (w - i < 1 / 2 ↔ r < 2 ^ k) ∧ (w - i = 1 / 2 ↔ r = 2 ^ k) ∧ (w - i = 0 ↔ r = 0) := by
  dsimp only
  have hdiv := Nat.div_add_mod m (2 ^ (k + 1))
  have hmod := Nat.mod_lt m (Nat.two_pow_pos (k + 1))
  have hpos := two_zpow_pos (e + (k + 1 : Nat))
  have hscale : (2 : ℝ) ^ (e + (k + 1 : Nat)) = 2 * 2 ^ (e + (k : Int)) := by
    push_cast
    rw [← add_assoc, zpow_add_one₀ (by norm_num), mul_comm]
  have hint (n : Nat) := h.lt_iff (k + 1) (by push_cast; omega) n
  have heq := h.eq_iff (k + 1) (by push_cast; omega) (m / 2 ^ (k + 1))
  have hhalf := h.lt_iff k hp (2 * (m / 2 ^ (k + 1)) + 1)
  have hhalfEq := h.eq_iff k hp (2 * (m / 2 ^ (k + 1)) + 1)
  have h0 := hint (m / 2 ^ (k + 1))
  have h1 := hint (m / 2 ^ (k + 1) + 1)
  have hk : 2 ^ (k + 1) = 2 * 2 ^ k := by rw [pow_succ, mul_comm]
  generalize m / 2 ^ (k + 1) = i at *
  generalize m % 2 ^ (k + 1) = r at *
  have hmid : ((2 * i + 1 : Nat) : ℝ) * 2 ^ (e + (k : Int)) = ((i : ℝ) + 1 / 2) * 2 ^ (e + (k + 1 : Nat)) := by
    rw [hscale]
    push_cast
    ring
  rw [hmid] at hhalf hhalfEq
  rw [hk] at hdiv hmod h0 h1 heq
  rw [sub_lt_iff_lt_add', sub_eq_iff_eq_add', sub_eq_zero, le_div_iff₀ hpos, ← not_lt, div_lt_iff₀ hpos, div_lt_iff₀ hpos,
    div_eq_iff hpos.ne', div_eq_iff hpos.ne']
  push_cast at h0 h1 hhalf hhalfEq heq ⊢
  rw [h0, h1, hhalf, hhalfEq, heq]
  have hp : i * (2 * 2 ^ k) = 2 * (i * 2 ^ k) := by ring
  have hq : 2 * 2 ^ k * i = 2 * (i * 2 ^ k) := by ring
  have hr : (i + 1) * (2 * 2 ^ k) = 2 * (i * 2 ^ k) + 2 * 2 ^ k := by ring
  have hs : (2 * i + 1) * 2 ^ k = 2 * (i * 2 ^ k) + 2 ^ k := by ring
  rw [hp, hr, hs]
  rw [hq] at hdiv
  generalize i * 2 ^ k = P at *
  generalize 2 ^ k = K at *
  omega

/-- The mode's choice, by a remainder `r` of a unit `2^(k+1)` that stands for the distance `d`. -/
theorem roundsUp_iff {r : Nat} {d : ℝ} (hlt : d < 1 / 2 ↔ r < 2 ^ k) (heq : d = 1 / 2 ↔ r = 2 ^ k) (hzero : d = 0 ↔ r = 0)
    (hd : 0 ≤ d) : roundsUp rm neg (i % 2 == 1) r (k + 1) = true ↔ rm.GoesUp neg i d := by
  have hpow : 2 ^ (k + 1) = 2 * 2 ^ k := by rw [pow_succ, mul_comm]
  have hgt : 1 / 2 < d ↔ 2 ^ k < r := by
    rw [← not_le, le_iff_lt_or_eq, hlt, heq]
    omega
  have hge : 1 / 2 ≤ d ↔ 2 ^ k ≤ r := by rw [← not_lt, hlt, not_lt]
  have hpos : 0 < d ↔ 0 < r := by rw [hd.lt_iff_ne', Ne, hzero, Nat.pos_iff_ne_zero]
  cases rm with
  | rne =>
    simp only [roundsUp, Rm.GoesUp, hgt, heq, hpow, Bool.or_eq_true, Bool.and_eq_true, decide_eq_true_eq, beq_iff_eq]
    omega
  | rmm =>
    simp only [roundsUp, Rm.GoesUp, hge, hpow, decide_eq_true_eq]
    omega
  | rtz => cases neg <;> simp [roundsUp, Rm.GoesUp, Rm.upward]
  | rdn => cases neg <;> simp [roundsUp, Rm.GoesUp, Rm.upward, hpos]
  | rup => cases neg <;> simp [roundsUp, Rm.GoesUp, Rm.upward, hpos]

/-- What `roundAt` rounds to, and whether it lost something. -/
theorem roundAt_spec (rm : Rm) (neg : Bool) (h : Near u m e p) (hp : p ≤ q - 1) :
    rm.RoundsNat neg (u / 2 ^ q) (roundAt rm neg m e q).1 ∧
      ((roundAt rm neg m e q).2 = false ↔ ∃ i : Nat, u / 2 ^ q = i) := by
  rcases le_or_gt q e with hqe | hqe
  · obtain ⟨d, rfl⟩ : ∃ d : Nat, e = q + d := ⟨(e - q).toNat, by omega⟩
    have hu : u / 2 ^ q = (m * 2 ^ d : Nat) := by
      rw [div_eq_iff (two_zpow_pos q).ne', (h q (by omega) (m * 2 ^ d)).2, zpow_add₀ (by norm_num), zpow_natCast]
      push_cast
      ring
    have hr : roundAt rm neg m (q + d) q = (m * 2 ^ d, false) := by
      rw [roundAt, if_pos hqe, add_sub_cancel_left, Int.toNat_natCast]
    rw [hr, hu]
    exact ⟨rm.roundsNat_natCast neg _, fun _ => ⟨_, rfl⟩, fun _ => rfl⟩
  · obtain ⟨k, rfl⟩ : ∃ k : Nat, q = e + (k + 1 : Nat) := ⟨(q - e - 1).toNat, by push_cast; omega⟩
    obtain ⟨hlo, hhi, hlt, heq, hzero⟩ := h.place (k := k) (by push_cast at hp; omega)
    have hr : roundAt rm neg m e (e + (k + 1 : Nat)) =
        (if roundsUp rm neg (m / 2 ^ (k + 1) % 2 == 1) (m % 2 ^ (k + 1)) (k + 1) then m / 2 ^ (k + 1) + 1 else m / 2 ^ (k + 1),
          decide (0 < m % 2 ^ (k + 1))) := by
      rw [roundAt, if_neg (by omega), add_sub_cancel_left, Int.toNat_natCast]
    have hup : roundsUp rm neg (m / 2 ^ (k + 1) % 2 == 1) (m % 2 ^ (k + 1)) (k + 1) = true ↔
        rm.GoesUp neg (m / 2 ^ (k + 1)) (u / 2 ^ (e + (k + 1 : Nat)) - (m / 2 ^ (k + 1) : Nat)) :=
      roundsUp_iff hlt heq hzero (by linarith)
    rw [hr]
    refine ⟨⟨_, hlo, hhi, ?_⟩, ?_⟩
    · rw [← hup]
      by_cases hu : roundsUp rm neg (m / 2 ^ (k + 1) % 2 == 1) (m % 2 ^ (k + 1)) (k + 1) = true
      · exact .inl ⟨hu, if_pos hu⟩
      · exact .inr ⟨hu, if_neg hu⟩
    · rw [decide_eq_false_iff_not, Nat.pos_iff_ne_zero, not_not, ← hzero, sub_eq_zero]
      refine ⟨fun h => ⟨_, h⟩, fun ⟨j, hj⟩ => ?_⟩
      rw [hj] at hlo hhi ⊢
      norm_cast at hlo hhi ⊢
      omega

end

end Sys2Proof.Machine
end

section
/-!
PROOFS. Rounding to a format (44_fd.md rule R402 items 3 and 5): the magnitude that the mode picks, tininess, and what `round`
gives for any real number near the exact one.
-/

namespace Sys2Proof.Machine

section
variable {t : FFmt} {rm : Rm} {neg : Bool} {u v w : ℝ} {m n i j k c : Nat} {e p q : Int}

/-! ## The magnitude picked -/

theorem FFmt.gridReal_strictMono (t : FFmt) : StrictMono fun j => (t.grid j : ℝ) :=
  Rat.cast_strictMono.comp t.grid_strictMono

/-- Distances to the magnitudes below a number and above it. -/
theorem FFmt.off_below (h0 : (t.grid k : ℝ) ≤ u) (hj : j ≤ k) :
    |(t.grid j : ℝ) - u| = u - t.grid j ∧ u - t.grid k ≤ u - t.grid j ∧ (u - t.grid j = u - t.grid k → j = k) := by
  have hjk : (t.grid j : ℝ) ≤ t.grid k := t.gridReal_strictMono.monotone hj
  exact ⟨by rw [abs_sub_comm, abs_of_nonneg (by linarith)], by linarith, fun h => t.gridReal_strictMono.injective (by linarith)⟩

theorem FFmt.off_above (h1 : u < (t.grid (k + 1) : ℝ)) (hj : k + 1 ≤ j) :
    |(t.grid j : ℝ) - u| = t.grid j - u ∧ (t.grid (k + 1) : ℝ) - u ≤ t.grid j - u ∧
      ((t.grid j : ℝ) - u = t.grid (k + 1) - u → j = k + 1) := by
  have hjk : (t.grid (k + 1) : ℝ) ≤ t.grid j := t.gridReal_strictMono.monotone hj
  exact ⟨abs_of_nonneg (by linarith), by linarith, fun h => t.gridReal_strictMono.injective (by linarith)⟩

/-- The lower neighbour is nearest. -/
theorem FFmt.off_lower (h0 : (t.grid k : ℝ) ≤ u) (h1 : u < (t.grid (k + 1) : ℝ)) (hd : u - t.grid k ≤ t.grid (k + 1) - u) (j : Nat) :
    |(t.grid k : ℝ) - u| ≤ |(t.grid j : ℝ) - u| ∧
      (|(t.grid j : ℝ) - u| = |(t.grid k : ℝ) - u| → j = k ∨ (j = k + 1 ∧ u - t.grid k = t.grid (k + 1) - u)) := by
  obtain ⟨hk, -, -⟩ := FFmt.off_below h0 le_rfl
  rcases le_or_gt j k with hj | hj
  · obtain ⟨hoff, hle, heq⟩ := FFmt.off_below h0 hj
    rw [hk, hoff]
    exact ⟨hle, fun h => .inl (heq h)⟩
  · obtain ⟨hoff, hle, heq⟩ := FFmt.off_above h1 hj
    rw [hk, hoff]
    exact ⟨hd.trans hle, fun h => .inr ⟨heq (by linarith), by linarith⟩⟩

/-- The upper neighbour is nearest. -/
theorem FFmt.off_upper (h0 : (t.grid k : ℝ) ≤ u) (h1 : u < (t.grid (k + 1) : ℝ)) (hd : t.grid (k + 1) - u ≤ u - t.grid k) (j : Nat) :
    |(t.grid (k + 1) : ℝ) - u| ≤ |(t.grid j : ℝ) - u| ∧
      (|(t.grid j : ℝ) - u| = |(t.grid (k + 1) : ℝ) - u| → j = k + 1 ∨ (j = k ∧ u - t.grid k = t.grid (k + 1) - u)) := by
  obtain ⟨hk, -, -⟩ := FFmt.off_above h1 le_rfl
  rcases le_or_gt j k with hj | hj
  · obtain ⟨hoff, hle, heq⟩ := FFmt.off_below h0 hj
    rw [hk, hoff]
    exact ⟨hd.trans hle, fun h => .inr ⟨heq (by linarith), by linarith⟩⟩
  · obtain ⟨hoff, hle, heq⟩ := FFmt.off_above h1 hj
    rw [hk, hoff]
    exact ⟨hle, fun h => .inl (heq h)⟩

/-- The mode's choice between two neighbours on the grid, `d` units of `2^q` from the lower. -/
theorem FFmt.picks_of_goesUp {δ d : ℝ} (hδ : 0 < δ) (h0 : u = t.grid k + d * δ) (h1 : (t.grid (k + 1) : ℝ) = t.grid k + δ)
    (hd0 : 0 ≤ d) (hd1 : d < 1) :
    (rm.GoesUp neg k d → t.Picks rm neg u (k + 1)) ∧ (¬ rm.GoesUp neg k d → t.Picks rm neg u k) := by
  have hlo : (t.grid k : ℝ) ≤ u := by nlinarith
  have hhi : u < (t.grid (k + 1) : ℝ) := by nlinarith
  have hmono := t.gridReal_strictMono
  have hle_of (h : d ≤ 1 / 2) : u - t.grid k ≤ t.grid (k + 1) - u := by nlinarith
  have hge_of (h : 1 / 2 ≤ d) : t.grid (k + 1) - u ≤ u - t.grid k := by nlinarith
  have heq_of (h : u - t.grid k = t.grid (k + 1) - u) : d = 1 / 2 := by
    have : (d - 1 / 2) * δ = 0 := by linarith
    have := (mul_eq_zero.mp this).resolve_right hδ.ne'
    linarith
  have hdirected (up : Bool) :
      (up = true ∧ 0 < d → if up then u ≤ (t.grid (k + 1) : ℝ) ∧ ∀ j, u ≤ (t.grid j : ℝ) → k + 1 ≤ j
        else (t.grid (k + 1) : ℝ) ≤ u ∧ ∀ j, (t.grid j : ℝ) ≤ u → j ≤ k + 1) ∧
      (¬ (up = true ∧ 0 < d) → if up then u ≤ (t.grid k : ℝ) ∧ ∀ j, u ≤ (t.grid j : ℝ) → k ≤ j
        else (t.grid k : ℝ) ≤ u ∧ ∀ j, (t.grid j : ℝ) ≤ u → j ≤ k) := by
    refine ⟨fun ⟨hup, hpos⟩ => ?_, fun hno => ?_⟩
    · rw [if_pos hup]
      have hgt : (t.grid k : ℝ) < u := by nlinarith
      exact ⟨hhi.le, fun j hj => hmono.lt_iff_lt.mp (hgt.trans_le hj)⟩
    · split
      · next hup =>
        obtain rfl : d = 0 := le_antisymm (not_lt.mp fun h => hno ⟨hup, h⟩) hd0
        have heq : u = t.grid k := by linarith
        exact ⟨heq.le, fun j hj => hmono.le_iff_le.mp (heq ▸ hj)⟩
      · exact ⟨hlo, fun j hj => Nat.le_of_lt_succ (hmono.lt_iff_lt.mp (hj.trans_lt hhi))⟩
  cases rm with
  | rne =>
    refine ⟨fun hup => ⟨fun j => ?_, fun j hj hoff => ?_⟩, fun hno => ⟨fun j => ?_, fun j hj hoff => ?_⟩⟩
    · exact (FFmt.off_upper hlo hhi (hge_of (hup.elim le_of_lt fun h => h.1.ge)) j).1
    · have htie := ((FFmt.off_upper hlo hhi (hge_of (hup.elim le_of_lt fun h => h.1.ge)) j).2 hoff).resolve_left hj
      have hd := heq_of htie.2
      have hodd := (hup.resolve_left fun h => h.ne' hd).2
      omega
    · exact (FFmt.off_lower hlo hhi (hle_of (not_lt.mp fun h => hno (.inl h))) j).1
    · have htie := ((FFmt.off_lower hlo hhi (hle_of (not_lt.mp fun h => hno (.inl h))) j).2 hoff).resolve_left hj
      have hd := heq_of htie.2
      have heven : ¬ k % 2 = 1 := fun h => hno (.inr ⟨hd, h⟩)
      omega
  | rmm =>
    refine ⟨fun hup => ⟨fun j => ?_, fun j hoff => ?_⟩, fun hno => ⟨fun j => ?_, fun j hoff => ?_⟩⟩
    · exact (FFmt.off_upper hlo hhi (hge_of hup) j).1
    · rcases (FFmt.off_upper hlo hhi (hge_of hup) j).2 hoff with h | h <;> omega
    · exact (FFmt.off_lower hlo hhi (hle_of (not_le.mp hno).le) j).1
    · rcases (FFmt.off_lower hlo hhi (hle_of (not_le.mp hno).le) j).2 hoff with h | ⟨_, h⟩
      · exact h.le
      · exact absurd (heq_of h).ge hno
  | rtz => exact hdirected _
  | rdn => exact hdirected _
  | rup => exact hdirected _

/-- A number in units of the grid's step, rounded to an integer, gives the magnitude picked. -/
theorem FFmt.picks_of_roundsNat (hg : t.Good) (hw : rm.RoundsNat neg (u / 2 ^ (t.qmin + c)) n)
    (hlt : u / 2 ^ (t.qmin + c) < (2 * 2 ^ t.fracBits : Nat))
    (hc : c = 0 ∨ ((2 ^ t.fracBits : Nat) : ℝ) ≤ u / 2 ^ (t.qmin + c)) :
    t.Picks rm neg u (c * 2 ^ t.fracBits + n) ∧ (t.grid (c * 2 ^ t.fracBits + n) : ℝ) = n * 2 ^ (t.qmin + c) := by
  obtain ⟨i, hlo, hhi, hn⟩ := hw
  have hδ := two_zpow_pos (t.qmin + c)
  have hi : i < 2 * 2 ^ t.fracBits := by exact_mod_cast hlo.trans_lt hlt
  have hci : c = 0 ∨ 2 ^ t.fracBits ≤ i := hc.imp_right fun h => by
    have : ((2 ^ t.fracBits : Nat) : ℝ) < i + 1 := h.trans_lt hhi
    norm_cast at this
    exact Nat.le_of_lt_succ this
  have hgrid (j : Nat) (hj : j ≤ 2 * 2 ^ t.fracBits) (hcj : c = 0 ∨ 2 ^ t.fracBits ≤ j) :
      (t.grid (c * 2 ^ t.fracBits + j) : ℝ) = j * 2 ^ (t.qmin + c) := by
    rw [t.grid_at hj hcj]
    push_cast
    rfl
  have hparity : (c * 2 ^ t.fracBits + i) % 2 = i % 2 := by
    obtain ⟨f, hf⟩ : ∃ f, t.fracBits = f + 1 := ⟨t.fracBits - 1, by have := hg.frac; omega⟩
    rw [hf, pow_succ, ← Nat.mul_assoc]
    omega
  have hgoes (d : ℝ) : rm.GoesUp neg (c * 2 ^ t.fracBits + i) d ↔ rm.GoesUp neg i d := by
    cases rm <;> simp only [Rm.GoesUp, hparity]
  have h0 := hgrid i hi.le hci
  have h1 := hgrid (i + 1) hi (by omega)
  have hpick := t.picks_of_goesUp (rm := rm) (neg := neg) (u := u) (k := c * 2 ^ t.fracBits + i) (d := u / 2 ^ (t.qmin + c) - i) hδ
    (by rw [h0]; field_simp; ring) (by rw [Nat.add_assoc, h1, h0]; push_cast; ring) (by linarith) (by linarith)
  rw [hgoes] at hpick
  rcases hn with ⟨hup, rfl⟩ | ⟨hno, rfl⟩
  · exact ⟨hpick.1 hup, h1⟩
  · exact ⟨hpick.2 hno, h0⟩

end

end Sys2Proof.Machine
end

section
/-!
PROOFS. `round` is the rounding of every real number near `m × 2^e` (44_fd.md rules R401, R402), with its flags.
-/

namespace Sys2Proof.Machine

/-- Rounding `w < N` to an integer keeps it below the even integer `N`. -/
def Rm.StaysBelow (rm : Rm) (neg : Bool) (w : ℝ) (N : Nat) : Prop :=
  match rm with
  | .rne | .rmm => w < N - 1 / 2
  | .rtz | .rdn | .rup => if rm.upward neg then w ≤ N - 1 else w < N

section
variable {t : FFmt} {rm : Rm} {neg : Bool} {u v w : ℝ} {m n N i j k c : Nat} {e p q : Int}

theorem Near.top (h : Near u m e p) (hm : m ≠ 0) (hp : p ≤ e + m.log2) :
    (2 : ℝ) ^ (e + (m.log2 : Int)) ≤ u ∧ u < 2 ^ (e + (m.log2 : Int) + 1) := by
  have hlo := h.lt_iff m.log2 hp 1
  have hhi := h.lt_iff (m.log2 + 1) (by push_cast; omega) 1
  rw [Nat.cast_one, one_mul, one_mul] at hlo hhi
  rw [← not_lt, hlo, not_lt, add_assoc]
  exact ⟨Nat.log2_self_le hm, hhi.mpr Nat.lt_log2_self⟩

theorem Rm.RoundsNat.lt_iff (h : rm.RoundsNat neg w n) (hw : w < N) (hN : N % 2 = 0) : n < N ↔ rm.StaysBelow neg w N := by
  obtain ⟨i, hlo, hhi, hn⟩ := h
  have hiN : i < N := by exact_mod_cast hlo.trans_lt hw
  rcases Nat.lt_or_ge (i + 1) N with hlt | hge
  · have hle : (i : ℝ) + 1 ≤ N - 1 := by
      have : ((i + 2 : Nat) : ℝ) ≤ N := by exact_mod_cast hlt
      push_cast at this
      linarith
    refine iff_of_true (by omega) ?_
    have hup : (if rm.upward neg then w ≤ N - 1 else w < N) := by split <;> linarith
    cases rm with
    | rne | rmm => simp only [Rm.StaysBelow]; linarith
    | rtz | rdn | rup => exact hup
  · obtain rfl : N = i + 1 := by omega
    have hodd : i % 2 = 1 := by omega
    have hno : n < i + 1 ↔ ¬ rm.GoesUp neg i (w - i) := by
      rcases hn with ⟨hu, rfl⟩ | ⟨hu, rfl⟩ <;> simp [hu]
    rw [hno]
    push_cast at hw ⊢
    have hup : ¬ (rm.upward neg = true ∧ 0 < w - i) ↔ if rm.upward neg then w ≤ (i + 1 : ℝ) - 1 else w < (i + 1 : ℝ) := by
      split
      · next h => rw [h, and_iff_right rfl, not_lt, sub_nonpos, add_sub_cancel_right]
      · next h => exact iff_of_true (fun h' => h h'.1) hw
    cases rm with
    | rne =>
      simp only [Rm.GoesUp, Rm.StaysBelow, hodd, and_true, not_or, not_lt]
      push_cast
      constructor
      · intro ⟨h1, h2⟩
        have := lt_of_le_of_ne h1 h2
        linarith
      · intro h
        exact ⟨by linarith, fun h' => by linarith⟩
    | rmm =>
      simp only [Rm.GoesUp, Rm.StaysBelow, not_le]
      push_cast
      constructor <;> intro h <;> linarith
    | rtz | rdn | rup =>
      simp only [Rm.StaysBelow, Nat.cast_add, Nat.cast_one]
      exact hup

/-- Rounding is exact on the integers alone. -/
theorem Rm.RoundsNat.exact_iff (h : rm.RoundsNat neg w n) : (∃ i : Nat, w = i) ↔ (n : ℝ) = w := by
  refine ⟨fun ⟨i, hi⟩ => ?_, fun hn => ⟨n, hn.symm⟩⟩
  rw [hi] at h ⊢
  rw [h.unique (rm.roundsNat_natCast neg i)]

/-! ## Tininess -/

/-- Tininess, in units of the last bit that a number just below the least normal one has. -/
theorem FFmt.tiny_iff (t : FFmt) : t.Tiny rm neg u ↔
    rm.StaysBelow neg (u / 2 ^ (t.emin - 1 - t.fracBits)) (2 ^ (t.fracBits + 1)) := by
  have hδ := two_zpow_pos (t.emin - 1 - t.fracBits)
  have hleast : (2 : ℝ) ^ t.emin = 2 ^ (t.fracBits + 1) * 2 ^ (t.emin - 1 - t.fracBits) := by
    rw [← zpow_natCast, ← zpow_add₀ (by norm_num)]
    congr 1
    push_cast
    ring
  have hhalf : (2 : ℝ) ^ (t.emin - 2 - t.fracBits) = 1 / 2 * 2 ^ (t.emin - 1 - t.fracBits) := by
    rw [show t.emin - 1 - (t.fracBits : Int) = t.emin - 2 - t.fracBits + 1 by ring, zpow_add_one₀ (by norm_num)]
    ring
  have hone := one_mul ((2 : ℝ) ^ (t.emin - 1 - t.fracBits))
  have hup : (if rm.upward neg then u ≤ (2 : ℝ) ^ t.emin - 2 ^ (t.emin - 1 - t.fracBits) else u < (2 : ℝ) ^ t.emin) ↔
      if rm.upward neg then u / 2 ^ (t.emin - 1 - t.fracBits) ≤ ((2 ^ (t.fracBits + 1) : Nat) : ℝ) - 1
      else u / 2 ^ (t.emin - 1 - t.fracBits) < ((2 ^ (t.fracBits + 1) : Nat) : ℝ) := by
    rw [div_le_iff₀ hδ, div_lt_iff₀ hδ, hleast]
    push_cast
    rw [sub_mul, hone]
  cases rm with
  | rne | rmm =>
    simp only [FFmt.Tiny, Rm.StaysBelow]
    rw [div_lt_iff₀ hδ, hleast, hhalf]
    push_cast
    rw [sub_mul]
  | rtz | rdn | rup => exact hup

/-- What `round` tests is tininess. -/
theorem FFmt.tiny_test (t : FFmt) (hm : m ≠ 0) (h : Near u m e (e + (m.log2 : Int) - t.fracBits - 1)) :
    (e + (m.log2 : Int) < t.emin ∧
      (roundAt rm neg m e (e + m.log2 - t.fracBits)).1 < 2 ^ ((t.emin - (e + m.log2)).toNat + t.fracBits)) ↔
      t.Tiny rm neg u := by
  obtain ⟨hlo, hhi⟩ := h.top hm (by omega)
  have hr := (roundAt_spec rm neg (q := e + m.log2 - t.fracBits) h (by omega)).1
  generalize hn : (roundAt rm neg m e (e + m.log2 - t.fracBits)).1 = n at *
  generalize e + (m.log2 : Int) = top at *
  have hunit := two_zpow_pos (top - t.fracBits)
  have hw : u / 2 ^ (top - t.fracBits) < (2 ^ (t.fracBits + 1) : Nat) := by
    rw [div_lt_iff₀ hunit]
    push_cast
    rwa [← zpow_natCast, ← zpow_add₀ (by norm_num), show ((t.fracBits + 1 : Nat) : Int) + (top - t.fracBits) = top + 1 by push_cast; ring]
  rcases lt_trichotomy top (t.emin - 1) with hlt | heq | hgt
  · have hle : n ≤ 2 ^ (t.fracBits + 1) := by
      obtain ⟨i, hi, -, hn'⟩ := hr
      have : i < 2 ^ (t.fracBits + 1) := by exact_mod_cast hi.trans_lt hw
      omega
    have hpow : 2 ^ (t.fracBits + 1) < 2 ^ ((t.emin - top).toNat + t.fracBits) := Nat.pow_lt_pow_right (by norm_num) (by omega)
    refine iff_of_true ⟨by omega, hle.trans_lt hpow⟩ ?_
    have hsmall : u < 2 ^ (t.emin - 1) := hhi.trans_le (zpow_le_zpow_right₀ (by norm_num) (by omega))
    have hhalf : (2 : ℝ) ^ t.emin = 2 ^ (t.emin - 1) + 2 ^ (t.emin - 1) := by
      rw [show t.emin = t.emin - 1 + 1 by ring, zpow_add_one₀ (by norm_num), add_sub_cancel_right]
      ring
    have h1 : (2 : ℝ) ^ (t.emin - 1 - t.fracBits) ≤ 2 ^ (t.emin - 1) := zpow_le_zpow_right₀ (by norm_num) (by omega)
    have h2 : (2 : ℝ) ^ (t.emin - 2 - t.fracBits) ≤ 2 ^ (t.emin - 1) := zpow_le_zpow_right₀ (by norm_num) (by omega)
    have hpos := two_zpow_pos (t.emin - 1)
    have hup : (if rm.upward neg then u ≤ (2 : ℝ) ^ t.emin - 2 ^ (t.emin - 1 - t.fracBits) else u < (2 : ℝ) ^ t.emin) := by
      split <;> linarith
    cases rm with
    | rne | rmm => simp only [FFmt.Tiny]; linarith
    | rtz | rdn | rup => exact hup
  · have hexp : (t.emin - top).toNat + t.fracBits = t.fracBits + 1 := by omega
    rw [hexp, and_iff_right (by omega), t.tiny_iff, hr.lt_iff hw (by rw [pow_succ]; omega), heq]
  · refine iff_of_false (by omega) fun htiny => ?_
    have hbig : (2 : ℝ) ^ t.emin ≤ u := (zpow_le_zpow_right₀ (by norm_num) (by omega)).trans hlo
    have h1 := two_zpow_pos (t.emin - 1 - t.fracBits)
    have h2 := two_zpow_pos (t.emin - 2 - t.fracBits)
    have hup : ¬ (if rm.upward neg then u ≤ (2 : ℝ) ^ t.emin - 2 ^ (t.emin - 1 - t.fracBits) else u < (2 : ℝ) ^ t.emin) := by
      split <;> linarith
    cases rm with
    | rne | rmm => simp only [FFmt.Tiny] at htiny; linarith
    | rtz | rdn | rup => exact hup htiny

/-! ## The result -/

/-- The place of the last bit kept. -/
def FFmt.lastPlace (t : FFmt) (m : Nat) (e : Int) : Int := Max.max (e + (m.log2 : Int) - t.fracBits) t.qmin

/-- The magnitude that rounding gives, before overflow. -/
def FFmt.roundMag (t : FFmt) (rm : Rm) (neg : Bool) (m : Nat) (e : Int) : Nat :=
  (t.lastPlace m e - t.qmin).toNat * 2 ^ t.fracBits + (roundAt rm neg m e (t.lastPlace m e)).1

/-- The magnitude is the one picked, and it is exact exactly when nothing was lost. -/
theorem FFmt.roundMag_picks (hg : t.Good) (rm : Rm) (neg : Bool) (hm : m ≠ 0) (h : Near u m e (e + (m.log2 : Int) - t.fracBits - 1)) :
    t.Picks rm neg u (t.roundMag rm neg m e) ∧
      ((roundAt rm neg m e (t.lastPlace m e)).2 = true ↔ (t.grid (t.roundMag rm neg m e) : ℝ) ≠ u) := by
  obtain ⟨hlo, hhi⟩ := h.top hm (by omega)
  have hlast : t.lastPlace m e = Max.max (e + (m.log2 : Int) - t.fracBits) t.qmin := rfl
  obtain ⟨hr, hexact⟩ := roundAt_spec rm neg (q := t.lastPlace m e) h (by omega)
  obtain ⟨c, hc⟩ : ∃ c : Nat, t.lastPlace m e = t.qmin + c := ⟨(t.lastPlace m e - t.qmin).toNat, by omega⟩
  have hplace : (t.lastPlace m e - t.qmin).toNat = c := by omega
  rw [FFmt.roundMag, hplace]
  rw [hc] at hr hexact hlast ⊢
  generalize roundAt rm neg m e (t.qmin + c) = rx at *
  obtain ⟨n, inexact⟩ := rx
  dsimp only at *
  have hunit := two_zpow_pos (t.qmin + c)
  have hlt : u / 2 ^ (t.qmin + c) < (2 * 2 ^ t.fracBits : Nat) := by
    rw [div_lt_iff₀ hunit]
    push_cast
    rw [← pow_succ', ← zpow_natCast, ← zpow_add₀ (by norm_num)]
    exact hhi.trans_le (zpow_le_zpow_right₀ (by norm_num) (by push_cast; omega))
  have hge : c = 0 ∨ ((2 ^ t.fracBits : Nat) : ℝ) ≤ u / 2 ^ (t.qmin + c) := by
    refine or_iff_not_imp_left.mpr fun hc0 => ?_
    rw [le_div_iff₀ hunit]
    push_cast
    rw [← zpow_natCast, ← zpow_add₀ (by norm_num)]
    exact (zpow_le_zpow_right₀ (by norm_num) (by omega)).trans hlo
  obtain ⟨hpick, hgrid⟩ := FFmt.picks_of_roundsNat hg hr hlt hge
  refine ⟨hpick, ?_⟩
  rw [hgrid, ← not_iff_not, Bool.not_eq_true, hexact, not_not, hr.exact_iff, eq_div_iff hunit.ne']

/-- What `round` gives, by the magnitude. -/
theorem FFmt.round_eq (t : FFmt) (rm : Rm) (neg : Bool) (hm : m ≠ 0) (e : Int) : t.round rm neg m e =
    if t.infBits ≤ t.roundMag rm neg m e then (t.sign neg (t.overflowMag rm neg), 0b00101#5)
    else (t.sign neg (t.roundMag rm neg m e),
      flagIf (roundAt rm neg m e (t.lastPlace m e)).2 flagNX |||
        flagIf ((roundAt rm neg m e (t.lastPlace m e)).2 && (decide (e + (m.log2 : Int) < t.emin) &&
          decide ((roundAt rm neg m e (e + m.log2 - t.fracBits)).1 < 2 ^ ((t.emin - (e + m.log2)).toNat + t.fracBits)))) flagUF) := by
  rw [FFmt.round, if_neg hm]
  rfl

theorem FFmt.overflowMag_eq (t : FFmt) (rm : Rm) (neg : Bool) :
    t.overflowMag rm neg = if rm = .rne ∨ rm = .rmm ∨ rm.upward neg = true then t.infBits else t.infBits - 1 := by
  cases rm <;> cases neg <;> rfl

/-- The flags NX and UF, by two conditions. -/
theorem roundFlags (x tiny : Bool) : let fl := flagIf x flagNX ||| flagIf (x && tiny) flagUF
    (fl.getLsbD 0 = true ↔ x = true) ∧ (fl.getLsbD 1 = true ↔ x = true ∧ tiny = true) ∧ fl.toNat < 4 ∧ fl.getLsbD 2 = false := by
  cases x <;> cases tiny <;> decide

theorem FFmt.round_rounds (hg : t.Good) (rm : Rm) (hm : m ≠ 0) (hneg : neg = true ↔ v < 0)
    (h : Near |v| m e (e + (m.log2 : Int) - t.fracBits - 1)) : t.Rounds rm v (t.round rm neg m e) := by
  obtain ⟨hpick, hexact⟩ := FFmt.roundMag_picks hg rm neg hm h
  refine ⟨neg, _, hneg, hpick, fun hk => ?_, fun hk => ?_⟩
  · rw [t.round_eq rm neg hm e, if_neg (Nat.not_le.mpr hk), ← hexact, ← t.tiny_test hm h]
    obtain ⟨h0, h1, hlt, -⟩ := roundFlags (roundAt rm neg m e (t.lastPlace m e)).2
      (decide (e + (m.log2 : Int) < t.emin) &&
        decide ((roundAt rm neg m e (e + m.log2 - t.fracBits)).1 < 2 ^ ((t.emin - (e + m.log2)).toNat + t.fracBits)))
    rw [Bool.and_eq_true, decide_eq_true_eq, decide_eq_true_eq] at h1
    exact ⟨rfl, h0, h1, hlt⟩
  · rw [t.round_eq rm neg hm e, if_pos hk, t.overflowMag_eq]

end

end Sys2Proof.Machine
end

section
/-!
PROOFS. Rounding of an exact number, toward zero and to nearest (10_state.md rule R33; 44_fd.md rules R401, R402).
-/

namespace Sys2Proof.Machine

section
variable {t : FFmt} {rm : Rm} {neg : Bool} {m n j k : Nat} {e p : Int}

theorem ratOf_false (m : Nat) (e : Int) : ratOf false m e = m * 2 ^ e := by
  rw [ratOf, if_neg Bool.false_ne_true, one_mul]

theorem ratOf_false_pos (hm : m ≠ 0) (e : Int) : 0 < ratOf false m e := by
  rw [ratOf_false]
  have : (0 : ℚ) < m := by exact_mod_cast Nat.pos_of_ne_zero hm
  positivity

theorem ratOf_neg_iff (hm : m ≠ 0) (neg : Bool) (e : Int) : neg = true ↔ ratOf neg m e < 0 := by
  have := ratOf_false_pos hm e
  rw [ratOf_neg]
  cases neg
  · simpa using this.le
  · simpa using this

theorem abs_ratOf (neg : Bool) (m : Nat) (e : Int) : |ratOf neg m e| = ratOf false m e := by
  have h0 : 0 ≤ ratOf false m e := by rw [ratOf_false]; positivity
  rw [ratOf_neg neg]
  cases neg
  · exact abs_of_nonneg h0
  · exact (abs_neg _).trans (abs_of_nonneg h0)

/-- An exact number stands for itself. -/
theorem near_ratOf (neg : Bool) (m : Nat) (e p : Int) : Near |((ratOf neg m e : ℚ) : ℝ)| m e p := by
  refine near_exact ?_ p
  rw [← Rat.cast_abs, abs_ratOf, ratOf_false]
  push_cast
  rfl

/-- Rounding an exact number. -/
theorem FFmt.round_ratOf (hg : t.Good) (rm : Rm) (neg : Bool) (hm : m ≠ 0) (e : Int) :
    t.Rounds rm ((ratOf neg m e : ℚ) : ℝ) (t.round rm neg m e) :=
  FFmt.round_rounds hg rm hm (by rw [ratOf_neg_iff hm neg e]; exact_mod_cast Iff.rfl) (near_ratOf neg m e _)

theorem FFmt.value_of_lt (h : j < t.infBits) : t.value j = some (t.grid j) := by
  have hj : j < t.signBit := h.trans t.infBits_lt
  have hmag : t.mag j = j := t.mag_sign (n := false) hj
  have hpos : t.isNeg j = false := t.isNeg_sign (n := false) hj
  obtain ⟨m, e, hu, -, hv⟩ := FFmt.unpack_of_lt (b := j) (by rwa [hmag])
  rw [FFmt.value, hu, hpos]
  exact congrArg some (by rw [hv, hmag])

/-- What the magnitude of an exact number rounds to, in rational numbers. -/
theorem FFmt.roundMag_ratOf (hg : t.Good) (rm : Rm) (neg : Bool) (hm : m ≠ 0) (e : Int) :
    t.Picks rm neg ((ratOf false m e : ℚ) : ℝ) (t.roundMag rm neg m e) ∧
      ((roundAt rm neg m e (t.lastPlace m e)).2 = true ↔ t.grid (t.roundMag rm neg m e) ≠ ratOf false m e) := by
  have hnear := near_ratOf false m e (e + (m.log2 : Int) - t.fracBits - 1)
  rw [abs_of_nonneg (by exact_mod_cast (ratOf_false_pos hm e).le)] at hnear
  obtain ⟨hpick, hexact⟩ := FFmt.roundMag_picks hg rm neg hm hnear
  exact ⟨hpick, by exact_mod_cast hexact⟩

theorem FFmt.round_of_fits (hm : m ≠ 0) (hk : t.roundMag rm neg m e < t.infBits) :
    (t.round rm neg m e).1 = t.sign neg (t.roundMag rm neg m e) ∧
      ((t.round rm neg m e).2.getLsbD 0 = true ↔ (roundAt rm neg m e (t.lastPlace m e)).2 = true) := by
  rw [t.round_eq rm neg hm e, if_neg (Nat.not_le.mpr hk)]
  exact ⟨rfl, (roundFlags _ _).1⟩

theorem FFmt.round_of_overflows (hm : m ≠ 0) (hk : t.infBits ≤ t.roundMag rm neg m e) :
    t.round rm neg m e = (t.sign neg (t.overflowMag rm neg), 0b00101#5) := by
  rw [t.round_eq rm neg hm e, if_pos hk]

/-- Toward zero: the largest number of the format that is not above the exact one. -/
theorem FFmt.round_rtz (hg : t.Good) (neg : Bool) (hm : m ≠ 0) (e : Int) :
    ∃ k, (t.round .rtz neg m e).1 = t.sign neg k ∧ k < t.infBits ∧ t.grid k ≤ ratOf false m e ∧
      (∀ j, j < t.infBits → t.grid j ≤ ratOf false m e → j ≤ k) ∧
      ((t.round .rtz neg m e).2.getLsbD 0 = true ↔ t.grid k ≠ ratOf false m e) := by
  obtain ⟨hpick, hexact⟩ := FFmt.roundMag_ratOf hg .rtz neg hm e
  have hup : Rm.upward .rtz neg = false := by cases neg <;> rfl
  simp only [FFmt.Picks, hup, Bool.false_eq_true, if_false] at hpick
  obtain ⟨hle, hmax⟩ := hpick
  norm_cast at hle hmax
  rcases Nat.lt_or_ge (t.roundMag .rtz neg m e) t.infBits with hk | hk
  · obtain ⟨hbits, hnx⟩ := FFmt.round_of_fits hm hk
    exact ⟨_, hbits, hk, hle, fun j _ => hmax j, hnx.trans hexact⟩
  · have hinf := FFmt.infBits_pos hg
    have hlt : t.grid (t.infBits - 1) < ratOf false m e := (t.grid_strictMono (by omega)).trans_le hle
    rw [FFmt.round_of_overflows hm hk]
    exact ⟨t.infBits - 1, rfl, by omega, hlt.le, fun j hj _ => by omega, iff_of_true (by simp) hlt.ne⟩

/-- To nearest: no number of the format is nearer, and the tie rules. -/
theorem FFmt.round_nearest (hg : t.Good) (neg : Bool) (hm : m ≠ 0) (e : Int) (hrm : rm = .rne ∨ rm = .rmm)
    (hfits : (t.round rm neg m e).2.getLsbD 2 = false) :
    ∃ k, (t.round rm neg m e).1 = t.sign neg k ∧ k < t.infBits ∧
      (∀ j, |t.grid k - ratOf false m e| ≤ |t.grid j - ratOf false m e|) ∧
      (∀ j, j ≠ k → |t.grid k - ratOf false m e| = |t.grid j - ratOf false m e| →
        (rm = .rne → k % 2 = 0) ∧ (rm = .rmm → j < k)) := by
  have hk : t.roundMag rm neg m e < t.infBits := by
    by_contra hk
    rw [FFmt.round_of_overflows hm (not_lt.mp hk)] at hfits
    simp at hfits
  refine ⟨_, (FFmt.round_of_fits hm hk).1, hk, ?_⟩
  obtain ⟨hpick, -⟩ := FFmt.roundMag_ratOf hg rm neg hm e
  rcases hrm with rfl | rfl
  · simp only [FFmt.Picks] at hpick
    obtain ⟨hnear, htie⟩ := hpick
    norm_cast at hnear htie
    exact ⟨hnear, fun j hj heq => ⟨fun _ => htie j hj heq.symm, by rintro ⟨⟩⟩⟩
  · simp only [FFmt.Picks] at hpick
    obtain ⟨hnear, htie⟩ := hpick
    norm_cast at hnear htie
    exact ⟨hnear, fun j hj heq => ⟨by rintro ⟨⟩, fun _ => lt_of_le_of_ne (htie j heq.symm) hj⟩⟩

end

end Sys2Proof.Machine

namespace Sys2Proof.Proofs
open Sys2Proof.Machine

/-- Settles O44: `round_rounds`, and for the mode toward zero the largest magnitude of `round_rtz`. -/
theorem directedRounding : Obligations.DirectedRounding := by
  intro f hf neg m e hm
  have hg := good_of_mem hf
  refine ⟨fun rm _ => FFmt.round_ratOf hg rm neg hm e, ?_⟩
  obtain ⟨k, hbits, hk, hle, hmax, hnx⟩ := FFmt.round_rtz hg neg hm e
  refine ⟨k, f.grid k, Prod.ext hbits rfl, hk, FFmt.value_of_lt hk, hle, fun j w hj hw hwle => ?_, hnx⟩
  obtain rfl : f.grid j = w := Option.some.inj ((FFmt.value_of_lt hj).symm.trans hw)
  exact f.grid_strictMono.monotone (hmax j hj hwle)

/-- Settles O45: `round_rounds`, and the nearest number of `round_nearest`. -/
theorem roundToNearest : Obligations.RoundToNearest := by
  intro f hf rm neg m e hm hrm
  have hg := good_of_mem hf
  refine ⟨FFmt.round_ratOf hg rm neg hm e, fun hfits => ?_⟩
  obtain ⟨k, hbits, hk, hnear, htie⟩ := FFmt.round_nearest hg neg hm e hrm hfits
  refine ⟨k, f.grid k, hbits, hk, FFmt.value_of_lt hk, fun j w hj hw => ?_, fun j w hj hw => ?_⟩
  · obtain rfl : f.grid j = w := Option.some.inj ((FFmt.value_of_lt hj).symm.trans hw)
    exact hnear j
  · obtain rfl : f.grid j = w := Option.some.inj ((FFmt.value_of_lt hj).symm.trans hw)
    exact htie j

end Sys2Proof.Proofs
end

section
/-!
PROOFS. Conversions (44_fd_convert.md rules R458, R459, R468, R469).
-/

namespace Sys2Proof.Machine

section
variable {t g : FFmt} {rm : Rm} {neg : Bool} {w : ℝ} {x : ℚ} {m n a : Nat} {e lo hi : Int}

/-! ## Rounding to an integer -/

theorem Rm.RoundsNat.directed (h : rm.RoundsNat neg w n) (h1 : rm ≠ .rne) (h2 : rm ≠ .rmm) :
    (n : Int) = if rm.upward neg then ⌈w⌉ else ⌊w⌋ := by
  obtain ⟨i, hlo, hhi, hn⟩ := h
  have hfloor : ⌊w⌋ = i := Int.floor_eq_iff.mpr ⟨by exact_mod_cast hlo, by exact_mod_cast hhi⟩
  have hgoes : rm.GoesUp neg i (w - i) ↔ rm.upward neg = true ∧ 0 < w - i := by
    cases rm with
    | rne => exact absurd rfl h1
    | rmm => exact absurd rfl h2
    | rtz | rdn | rup => exact Iff.rfl
  rw [hgoes] at hn
  rcases hn with ⟨⟨hup, hpos⟩, rfl⟩ | ⟨hno, rfl⟩
  · rw [if_pos hup, eq_comm, Int.ceil_eq_iff]
    push_cast
    exact ⟨by linarith, by linarith⟩
  · split
    · next hup =>
      obtain rfl : w = n := le_antisymm (by_contra fun h => hno ⟨hup, by linarith⟩) hlo
      exact (Int.ceil_natCast n).symm
    · exact hfloor.symm

theorem Rm.RoundsNat.nearest (h : rm.RoundsNat neg w n) (hrm : rm = .rne ∨ rm = .rmm) :
    |w - n| ≤ 1 / 2 ∧ (|w - n| = 1 / 2 → (rm = .rne → n % 2 = 0) ∧ (rm = .rmm → w < n)) := by
  obtain ⟨i, hlo, hhi, hn⟩ := h
  rcases hn with ⟨hup, rfl⟩ | ⟨hno, rfl⟩
  · push_cast
    rw [abs_sub_comm, abs_of_pos (by linarith)]
    rcases hrm with rfl | rfl
    · have hle : 1 / 2 ≤ w - i := hup.elim le_of_lt fun h => h.1.ge
      refine ⟨by linarith, fun htie => ⟨fun _ => ?_, by rintro ⟨⟩⟩⟩
      have := (hup.resolve_left (by linarith)).2
      omega
    · have hle : 1 / 2 ≤ w - i := hup
      exact ⟨by linarith, fun _ => ⟨by rintro ⟨⟩, fun _ => by linarith⟩⟩
  · rw [abs_of_nonneg (by linarith)]
    rcases hrm with rfl | rfl
    · have hle : w - n ≤ 1 / 2 := not_lt.mp fun h => hno (.inl h)
      refine ⟨hle, fun htie => ⟨fun _ => ?_, by rintro ⟨⟩⟩⟩
      have : ¬ n % 2 = 1 := fun h => hno (.inr ⟨htie, h⟩)
      omega
    · have hlt : w - n < 1 / 2 := not_le.mp hno
      exact ⟨hlt.le, fun htie => absurd htie hlt.ne⟩

/-- A magnitude rounded, with its sign, is the integer that the mode picks. -/
theorem Rm.RoundsNat.picksInt (hx : 0 ≤ x) (h : rm.RoundsNat neg (x : ℝ) n) :
    rm.PicksInt (if neg then -x else x) (if neg then -(n : Int) else n) := by
  have hdist : |(if neg then -x else x) - ((if neg then -(n : Int) else n : Int) : ℚ)| = |x - n| := by
    cases neg
    · simp
    · rw [if_pos rfl, if_pos rfl, ← abs_neg]
      push_cast
      congr 1
      ring
  have hhalf : (1 / 2 : ℝ) = ((1 / 2 : ℚ) : ℝ) := by norm_num
  have hnear (hrm : rm = .rne ∨ rm = .rmm) : |x - n| ≤ 1 / 2 ∧
      (|x - n| = 1 / 2 → (rm = .rne → n % 2 = 0) ∧ (rm = .rmm → x < n)) := by
    have := h.nearest hrm
    rw [hhalf] at this
    exact_mod_cast this
  have hdir (h1 : rm ≠ .rne) (h2 : rm ≠ .rmm) := h.directed h1 h2
  simp only [Rat.ceil_cast, Rat.floor_cast] at hdir
  cases rm with
  | rne =>
    obtain ⟨hle, htie⟩ := hnear (.inl rfl)
    refine ⟨hdist ▸ hle, fun heq => ?_⟩
    have := (htie (hdist ▸ heq)).1 rfl
    split <;> omega
  | rmm =>
    obtain ⟨hle, htie⟩ := hnear (.inr rfl)
    refine ⟨hdist ▸ hle, fun heq => ?_⟩
    have hlt := (htie (hdist ▸ heq)).2 rfl
    cases neg <;> simpa [abs_of_nonneg hx] using hlt
  | rtz =>
    have hz := hdir (by decide) (by decide)
    have hup : Rm.upward .rtz neg = false := by cases neg <;> rfl
    rw [hup, if_neg Bool.false_ne_true] at hz
    simp only [Rm.PicksInt, hz]
    cases neg
    · rw [if_neg Bool.false_ne_true, if_neg Bool.false_ne_true, if_neg hx.not_gt]
    · rw [if_pos rfl, if_pos rfl, Int.ceil_neg]
      split
      · rfl
      · next h0 =>
        obtain rfl : x = 0 := le_antisymm (by linarith) hx
        simp
  | rdn =>
    have hz := hdir (by decide) (by decide)
    simp only [Rm.PicksInt, hz]
    cases neg
    · rfl
    · exact (Int.floor_neg).symm
  | rup =>
    have hz := hdir (by decide) (by decide)
    simp only [Rm.PicksInt, hz]
    cases neg
    · rfl
    · exact (Int.ceil_neg).symm

/-! ## To an integer -/

theorem ratOf_false_nonneg (m : Nat) (e : Int) : 0 ≤ ratOf false m e := by
  rw [ratOf_false]
  positivity

/-- The integer that a finite number is converted to, before saturation. -/
def roundedInt (rm : Rm) (n : Bool) (m : Nat) (e : Int) : Int := if n then -((roundAt rm n m e 0).1 : Int) else (roundAt rm n m e 0).1

theorem roundedInt_spec (rm : Rm) (n : Bool) (m : Nat) (e : Int) :
    rm.PicksInt (ratOf n m e) (roundedInt rm n m e) ∧
      ((roundAt rm n m e 0).2 = false ↔ (roundedInt rm n m e : ℚ) = ratOf n m e) := by
  have hnear := near_ratOf false m e (-1)
  rw [abs_of_nonneg (by exact_mod_cast ratOf_false_nonneg m e)] at hnear
  obtain ⟨hr, hexact⟩ := roundAt_spec rm n (q := 0) hnear (by omega)
  rw [zpow_zero, div_one] at hr hexact
  rw [hr.exact_iff] at hexact
  rw [ratOf_neg]
  refine ⟨hr.picksInt (ratOf_false_nonneg m e), hexact.trans ?_⟩
  have hcast : (((roundAt rm n m e 0).1 : ℝ) = ((ratOf false m e : ℚ) : ℝ)) ↔ ((roundAt rm n m e 0).1 : ℚ) = ratOf false m e := by
    exact_mod_cast Iff.rfl
  rw [hcast, roundedInt]
  cases n <;> simp

theorem FFmt.toInt_of_fin (rm : Rm) (hu : t.unpack a = .fin neg m e) : t.toInt rm lo hi a =
    if roundedInt rm neg m e < lo then (lo, 0b10000#5) else if hi < roundedInt rm neg m e then (hi, 0b10000#5)
    else (roundedInt rm neg m e, if (roundedInt rm neg m e : ℚ) = ratOf neg m e then 0 else 0b00001#5) := by
  have hnx : flagIf (roundAt rm neg m e 0).2 flagNX = if (roundedInt rm neg m e : ℚ) = ratOf neg m e then 0 else 0b00001#5 := by
    rw [if_congr (roundedInt_spec rm neg m e).2.symm rfl rfl]
    cases (roundAt rm neg m e 0).2 <;> rfl
  rw [FFmt.toInt, hu, ← hnx]
  rfl

/-- A pattern with a number is that of a finite one. -/
theorem FFmt.unpack_of_value (h : t.value a = some x) :
    ∃ m e, t.unpack a = .fin (t.isNeg a) m e ∧ ratOf (t.isNeg a) m e = x := by
  rcases t.pattern a with ⟨-, hu⟩ | ⟨-, -, -, hu⟩ | ⟨-, -, -, m, e, hu, -⟩
  all_goals rw [FFmt.value, hu] at h
  · cases h
  · cases h
  · exact ⟨m, e, hu, Option.some.inj h⟩

/-! ## To a format -/

theorem ratOf_eq_zero_iff : ratOf neg m e = 0 ↔ m = 0 := by
  rw [← abs_eq_zero, abs_ratOf, ratOf_false]
  simp [zpow_ne_zero e (two_ne_zero : (2 : ℚ) ≠ 0)]

theorem FFmt.round_zero (t : FFmt) (rm : Rm) (neg : Bool) (e : Int) : t.round rm neg 0 e = (t.sign neg 0, 0) := by
  rw [FFmt.round, if_pos rfl]

theorem ratOf_ofInt (v : Int) : ratOf (decide (v < 0)) v.natAbs 0 = v := by
  rw [ratOf_neg, ratOf_false, zpow_zero, mul_one]
  have habs : ((v.natAbs : Nat) : ℚ) = |(v : ℚ)| := by
    rw [← Int.cast_natCast, Int.natCast_natAbs, Int.cast_abs]
  rw [habs]
  by_cases h : v < 0
  · rw [if_pos (decide_eq_true h), abs_of_neg (by exact_mod_cast h), neg_neg]
  · rw [if_neg (by simpa using h), abs_of_nonneg (by exact_mod_cast not_lt.mp h)]

theorem FFmt.ofInt_rounds (hg : t.Good) (rm : Rm) {v : Int} (hv : v ≠ 0) : t.Rounds rm (v : ℝ) (t.ofInt rm v) := by
  have h := FFmt.round_ratOf hg rm (decide (v < 0)) (Int.natAbs_ne_zero.mpr hv) 0
  rw [ratOf_ofInt, Rat.cast_intCast] at h
  exact h

theorem FFmt.convert_of_fin (hg : g.Good) (rm : Rm) (hu : t.unpack a = .fin neg m e) :
    if ratOf neg m e = 0 then t.convert g rm a = (g.sign neg 0, 0)
    else g.Rounds rm ((ratOf neg m e : ℚ) : ℝ) (t.convert g rm a) := by
  have hconv : t.convert g rm a = g.round rm neg m e := by rw [FFmt.convert, hu]
  rw [hconv]
  split
  · next hz => rw [ratOf_eq_zero_iff.mp hz, g.round_zero]
  · next hz => exact FFmt.round_ratOf hg rm neg (ratOf_eq_zero_iff.not.mp hz) e

end

end Sys2Proof.Machine

namespace Sys2Proof.Proofs
open Sys2Proof.Machine

/-- Settles O48: by what the operand stands for. -/
theorem conversionsRound : Obligations.ConversionsRound := by
  intro f hf a lo hi _ _
  have hinf (n : Bool) := f.unpack_inf n
  have hpos : f.unpack f.infBits = .inf false := hinf false
  refine ⟨fun rm => ⟨fun hnan => ?_, ?_, ?_, fun x hx => ?_⟩, fun x hx => ?_, fun rm v => ⟨?_, fun hv => ?_⟩,
    fun g hg rm => ⟨fun hnan => ?_, fun hmag => ?_, fun x hx => ?_⟩⟩
  · rw [FFmt.toInt, FFmt.unpack_of_nan hnan]
    rfl
  · rw [FFmt.toInt, hpos]
    rfl
  · rw [FFmt.toInt, hinf true]
    rfl
  · obtain ⟨m, e, hu, rfl⟩ := FFmt.unpack_of_value hx
    exact ⟨_, (roundedInt_spec rm _ m e).1, FFmt.toInt_of_fin rm hu⟩
  · obtain ⟨m, e, hu, rfl⟩ := FFmt.unpack_of_value hx
    have hz : roundedInt .rtz (f.isNeg a) m e = if ratOf (f.isNeg a) m e < 0 then _ else _ := (roundedInt_spec .rtz _ m e).1
    rw [← hz]
    exact FFmt.toInt_of_fin .rtz hu
  · exact f.round_zero rm false 0
  · exact FFmt.ofInt_rounds (good_of_mem hf) rm hv
  · rw [FFmt.convert, FFmt.unpack_of_nan hnan]
    cases f.isSnan a <;> rfl
  · rw [FFmt.convert, FFmt.unpack_of_inf hmag]
    rfl
  · obtain ⟨m, e, hu, rfl⟩ := FFmt.unpack_of_value hx
    exact FFmt.convert_of_fin (good_of_mem hg) rm hu

end Sys2Proof.Proofs
end

section
/-!
PROOFS. Arithmetic rounds the exact value once (44_fd.md rules R401, R402, R414 to R424).
-/

namespace Sys2Proof.Machine

section
variable {t : FFmt} {rm : Rm} {neg neg' n1 n2 n3 : Bool} {u v w : ℝ} {x y : ℚ} {m m' n i a b c m1 m2 m3 : Nat} {e e' e1 e2 e3 p q : Int}

/-! ## Rounding depends on the number alone -/

theorem roundAt_congr (rm : Rm) (neg : Bool) (h : (m : ℝ) * 2 ^ e = m' * 2 ^ e') (q : Int) :
    roundAt rm neg m e q = roundAt rm neg m' e' q := by
  obtain ⟨hr, hx⟩ := roundAt_spec rm neg (q := q) (near_exact rfl (q - 1)) le_rfl
  obtain ⟨hr', hx'⟩ := roundAt_spec rm neg (q := q) (near_exact h (q - 1)) le_rfl
  refine Prod.ext (hr.unique hr') ?_
  rw [Bool.eq_iff_iff, ← not_iff_not, Bool.not_eq_true, Bool.not_eq_true, hx, hx']

theorem top_congr (hm : m ≠ 0) (hm' : m' ≠ 0) (h : (m : ℝ) * 2 ^ e = m' * 2 ^ e') : e + (m.log2 : Int) = e' + m'.log2 := by
  obtain ⟨hlo, hhi⟩ := (near_exact rfl (e + m.log2)).top hm le_rfl
  obtain ⟨hlo', hhi'⟩ := (near_exact h (e' + m'.log2)).top hm' le_rfl
  have h1 := (zpow_lt_zpow_iff_right₀ (by norm_num : (1 : ℝ) < 2)).mp (hlo.trans_lt hhi')
  have h2 := (zpow_lt_zpow_iff_right₀ (by norm_num : (1 : ℝ) < 2)).mp (hlo'.trans_lt hhi)
  omega

theorem FFmt.round_congr (t : FFmt) (rm : Rm) (hm : m ≠ 0) (h : ratOf neg m e = ratOf neg' m' e') :
    t.round rm neg m e = t.round rm neg' m' e' := by
  have hm' : m' ≠ 0 := ratOf_eq_zero_iff.not.mp (h ▸ ratOf_eq_zero_iff.not.mpr hm)
  obtain rfl : neg = neg' := Bool.eq_iff_iff.mpr ((ratOf_neg_iff hm neg e).trans (h ▸ (ratOf_neg_iff hm' neg' e').symm))
  have habs : ratOf false m e = ratOf false m' e' := by rw [← abs_ratOf neg, h, abs_ratOf]
  have hreal : (m : ℝ) * 2 ^ e = m' * 2 ^ e' := by
    rw [ratOf_false, ratOf_false] at habs
    have := congrArg (Rat.cast : ℚ → ℝ) habs
    push_cast at this
    exact this
  have htop := top_congr hm hm' hreal
  have hlast : t.lastPlace m e = t.lastPlace m' e' := by rw [FFmt.lastPlace, FFmt.lastPlace, htop]
  rw [t.round_eq rm neg hm e, t.round_eq rm neg hm' e', FFmt.roundMag, FFmt.roundMag, hlast, htop, roundAt_congr rm neg hreal,
    roundAt_congr rm neg hreal]

/-! ## Sums -/

theorem ratOf_not (neg : Bool) (m : Nat) (e : Int) : ratOf (!neg) m e = -ratOf neg m e := by
  rw [ratOf_neg, ratOf_neg neg]
  cases neg <;> simp

theorem ratOf_pos_iff (hm : m ≠ 0) (neg : Bool) (e : Int) : 0 < ratOf neg m e ↔ neg = false := by
  have h0 := ratOf_not neg m e
  rw [← Bool.not_eq_true', ratOf_neg_iff hm (!neg) e, h0, neg_neg_iff_pos]

theorem ratOf_mul (n1 n2 : Bool) (m1 m2 : Nat) (e1 e2 : Int) :
    ratOf n1 m1 e1 * ratOf n2 m2 e2 = ratOf (n1 ^^ n2) (m1 * m2) (e1 + e2) := by
  have hpow : (2 : ℚ) ^ (e1 + e2) = 2 ^ e1 * 2 ^ e2 := zpow_add₀ (by norm_num) e1 e2
  cases n1 <;> cases n2 <;> simp [ratOf, hpow] <;> ring

theorem scaledInt_eq (neg : Bool) (m : Nat) (h : q ≤ e) : (scaledInt neg m e q : ℚ) * 2 ^ q = ratOf neg m e := by
  obtain ⟨d, rfl⟩ : ∃ d : Nat, e = q + d := ⟨(e - q).toNat, by omega⟩
  have hpow : (2 : ℚ) ^ (q + (d : Int)) = 2 ^ q * 2 ^ d := by rw [zpow_add₀ (by norm_num), zpow_natCast]
  rw [scaledInt, add_sub_cancel_left, Int.toNat_natCast]
  cases neg <;> simp [ratOf, hpow] <;> ring

theorem ratOf_int (v e : Int) : ratOf (decide (v < 0)) v.natAbs e = v * 2 ^ e := by
  have h0 := ratOf_ofInt v
  have hscale : ratOf (decide (v < 0)) v.natAbs e = ratOf (decide (v < 0)) v.natAbs 0 * 2 ^ e := by
    rw [ratOf, ratOf, zpow_zero, mul_one]
  rw [hscale, h0]

/-- `r` is the exact sum `x` of terms of signs `n1` and `n2`, rounded once, or the zero that the signs give. -/
def FFmt.SumIs (t : FFmt) (rm : Rm) (n1 n2 : Bool) (x : ℚ) (r : FRes) : Prop :=
  (∀ neg m e, m ≠ 0 → x = ratOf neg m e → r = t.round rm neg m e) ∧
  (x = 0 → r = (t.sign (if n1 = n2 then n1 else rm == .rdn) 0, 0))

/-- The sum of two numbers, in units of the last bit of both. -/
def scaledSum (n1 : Bool) (m1 : Nat) (e1 : Int) (n2 : Bool) (m2 : Nat) (e2 : Int) : Int :=
  scaledInt n1 m1 e1 (min e1 e2) + scaledInt n2 m2 e2 (min e1 e2)

theorem scaledSum_eq (n1 n2 : Bool) (m1 m2 : Nat) (e1 e2 : Int) :
    ratOf n1 m1 e1 + ratOf n2 m2 e2 = scaledSum n1 m1 e1 n2 m2 e2 * 2 ^ min e1 e2 := by
  rw [← scaledInt_eq n1 m1 (min_le_left e1 e2), ← scaledInt_eq n2 m2 (min_le_right e1 e2), scaledSum]
  push_cast
  ring

theorem FFmt.addFin_eq (t : FFmt) (rm : Rm) (n1 n2 : Bool) (m1 m2 : Nat) (e1 e2 : Int) : t.addFin rm n1 m1 e1 n2 m2 e2 =
    if scaledSum n1 m1 e1 n2 m2 e2 = 0 then (t.sign (if n1 == n2 then n1 else rm == .rdn) 0, 0)
    else t.round rm (decide (scaledSum n1 m1 e1 n2 m2 e2 < 0)) (scaledSum n1 m1 e1 n2 m2 e2).natAbs (Min.min e1 e2) := rfl

theorem FFmt.addFin_sumIs (t : FFmt) (rm : Rm) (n1 n2 : Bool) (m1 m2 : Nat) (e1 e2 : Int) :
    t.SumIs rm n1 n2 (ratOf n1 m1 e1 + ratOf n2 m2 e2) (t.addFin rm n1 m1 e1 n2 m2 e2) := by
  rw [t.addFin_eq, scaledSum_eq]
  generalize scaledSum n1 m1 e1 n2 m2 e2 = v
  have hpow : (2 : ℚ) ^ Min.min e1 e2 ≠ 0 := zpow_ne_zero _ two_ne_zero
  refine ⟨fun neg m e hm hx => ?_, fun h0 => ?_⟩
  · have hv : v ≠ 0 := by
      rintro rfl
      rw [Int.cast_zero, zero_mul] at hx
      exact ratOf_eq_zero_iff.not.mpr hm hx.symm
    rw [if_neg hv]
    exact t.round_congr rm (Int.natAbs_ne_zero.mpr hv) ((ratOf_int v _).trans hx)
  · have hv : v = 0 := by exact_mod_cast (mul_eq_zero.mp h0).resolve_right hpow
    rw [if_pos hv]
    cases n1 <;> cases n2 <;> rfl

/-- The product of two numbers. -/
theorem FFmt.round_mul (t : FFmt) (rm : Rm) (n1 n2 : Bool) (m1 m2 : Nat) (e1 e2 : Int) :
    (∀ neg m e, m ≠ 0 → ratOf n1 m1 e1 * ratOf n2 m2 e2 = ratOf neg m e →
      t.round rm (n1 ^^ n2) (m1 * m2) (e1 + e2) = t.round rm neg m e) ∧
    (ratOf n1 m1 e1 * ratOf n2 m2 e2 = 0 → t.round rm (n1 ^^ n2) (m1 * m2) (e1 + e2) = (t.sign (n1 ^^ n2) 0, 0)) := by
  rw [ratOf_mul]
  refine ⟨fun neg m e hm hx => (t.round_congr rm hm hx.symm).symm, fun h0 => ?_⟩
  rw [ratOf_eq_zero_iff.mp h0, t.round_zero]

/-- The product of two numbers and an addend. -/
theorem FFmt.fmaVal_sumIs (t : FFmt) (rm : Rm) (n1 n2 n3 : Bool) (m1 m2 m3 : Nat) (e1 e2 e3 : Int) :
    t.SumIs rm (n1 ^^ n2) n3 (ratOf n1 m1 e1 * ratOf n2 m2 e2 + ratOf n3 m3 e3)
      (t.fmaVal rm (.fin n1 m1 e1) (.fin n2 m2 e2) (.fin n3 m3 e3)) := by
  rw [ratOf_mul]
  exact t.addFin_sumIs rm _ n3 _ m3 _ e3

/-! ## Quotients and roots -/

/-- A number within a unit above `i`, as twice `i` and one more where it is not `i`. -/
theorem near_halfUnit {s : Nat} (hlo : (i : ℝ) ≤ w) (hhi : w < i + 1) (hs : (s = 0 ∧ w = i) ∨ (s = 1 ∧ w ≠ i)) :
    Near (w * 2 ^ (e + 1)) (2 * i + s) e (e + 1) := by
  have hpos := two_zpow_pos e
  rw [zpow_add_one₀ (by norm_num), mul_comm ((2 : ℝ) ^ e), ← mul_assoc]
  rcases hs with ⟨rfl, rfl⟩ | ⟨rfl, hne⟩
  · exact near_exact (by push_cast; ring) _
  · have hlt : (i : ℝ) < w := lt_of_le_of_ne hlo hne.symm
    refine near_sticky (by omega) ?_ ?_
    all_goals
      refine mul_lt_mul_of_pos_right ?_ hpos
      push_cast
      linarith

/-- Rounding such a number, when enough bits of it are kept. -/
theorem FFmt.round_halfUnit {s : Nat} (hg : t.Good) (rm : Rm) (hneg : neg = true ↔ v < 0) (hv : |v| = w * 2 ^ (e + 1))
    (hlo : (i : ℝ) ≤ w) (hhi : w < i + 1) (hs : (s = 0 ∧ w = i) ∨ (s = 1 ∧ w ≠ i)) (hi : 2 ^ (t.fracBits + 1) ≤ i) :
    t.Rounds rm v (t.round rm neg (2 * i + s) e) := by
  have hm : 2 * i + s ≠ 0 := by
    have := Nat.two_pow_pos (t.fracBits + 1)
    omega
  have hlog : t.fracBits + 2 ≤ (2 * i + s).log2 := by
    rw [Nat.le_log2 hm, pow_succ]
    omega
  exact FFmt.round_rounds hg rm hm hneg (hv ▸ (near_halfUnit hlo hhi hs).mono (by omega))

/-- The significand of a pattern has at most one bit more than the fraction. -/
theorem FFmt.significand_lt (h : t.unpack a = .fin neg m e) : m < 2 ^ (t.fracBits + 1) := by
  have hfrac : t.fracField a < 2 ^ t.fracBits := Nat.mod_lt _ (Nat.two_pow_pos _)
  rw [t.unpack_eq] at h
  rw [pow_succ]
  split at h
  · split at h <;> cases h
  · split at h <;> cases h <;> omega

theorem FFmt.divFin_rounds (hg : t.Good) (rm : Rm) (n1 n2 : Bool) (e1 e2 : Int) (h1 : m1 ≠ 0) (h2 : m2 ≠ 0)
    (hlt : m2 < 2 ^ (t.fracBits + 1)) :
    t.Rounds rm ((ratOf n1 m1 e1 / ratOf n2 m2 e2 : ℚ) : ℝ) (t.divFin rm (n1 ^^ n2) m1 e1 m2 e2) := by
  have hpos : 0 < m2 := Nat.pos_of_ne_zero h2
  have hposR : (0 : ℝ) < m2 := by exact_mod_cast hpos
  rw [FFmt.divFin]
  generalize hk : 2 * t.fracBits + 4 = k
  generalize hnum : m1 * 2 ^ k = num
  have hdiv := Nat.div_add_mod num m2
  have hmod := Nat.mod_lt num hpos
  have hcast : (num : ℝ) = m2 * (num / m2 : Nat) + (num % m2 : Nat) := by exact_mod_cast hdiv.symm
  have hmodR : ((num % m2 : Nat) : ℝ) < m2 := by exact_mod_cast hmod
  refine FFmt.round_halfUnit (w := num / m2) hg rm ?_ ?_ ?_ ?_ ?_ ?_
  · rw [Rat.cast_lt_zero, div_neg_iff, ratOf_pos_iff h1, ratOf_pos_iff h2, ← ratOf_neg_iff h1, ← ratOf_neg_iff h2]
    cases n1 <;> cases n2 <;> decide
  · rw [← Rat.cast_abs, abs_div, abs_ratOf, abs_ratOf, ratOf_false, ratOf_false, ← hnum]
    push_cast
    rw [sub_add_cancel, zpow_sub₀ (by norm_num), zpow_sub₀ (by norm_num), zpow_natCast]
    field_simp
  · rw [le_div_iff₀ hposR, hcast]
    nlinarith [Nat.cast_nonneg (α := ℝ) (num % m2)]
  · rw [div_lt_iff₀ hposR, hcast]
    nlinarith
  · have heq : (num : ℝ) / m2 = (num / m2 : Nat) ↔ num % m2 = 0 := by
      rw [div_eq_iff hposR.ne', hcast]
      constructor
      · intro h
        exact_mod_cast (by linarith : ((num % m2 : Nat) : ℝ) = 0)
      · intro h
        rw [h]
        push_cast
        ring
    by_cases h0 : num % m2 = 0
    · exact .inl ⟨if_pos h0, heq.mpr h0⟩
    · exact .inr ⟨if_neg h0, heq.not.mpr h0⟩
  · rw [Nat.le_div_iff_mul_le hpos]
    calc 2 ^ (t.fracBits + 1) * m2 ≤ 2 ^ (t.fracBits + 1) * 2 ^ (t.fracBits + 1) := Nat.mul_le_mul_left _ hlt.le
      _ ≤ 2 ^ k := by
        rw [← pow_add]
        exact Nat.pow_le_pow_right (by norm_num) (by omega)
      _ ≤ num := by
        rw [← hnum]
        exact Nat.le_mul_of_pos_left _ (Nat.pos_of_ne_zero h1)

theorem FFmt.divVal_fin (h2 : m2 ≠ 0) :
    t.divVal rm (.fin n1 m1 e1) (.fin n2 m2 e2) = t.divFin rm (n1 ^^ n2) m1 e1 m2 e2 := if_neg h2

theorem FFmt.divFin_zero : t.divFin rm neg 0 e1 m2 e2 = (t.sign neg 0, 0) := by
  simp only [FFmt.divFin, Nat.zero_mul, Nat.zero_div, Nat.zero_mod, if_true, Nat.mul_zero, Nat.add_zero, t.round_zero]

/-- The search keeps the root between `r` and `r + 2^b`. -/
theorem isqrtFrom_spec (n : Nat) : ∀ b r, r * r ≤ n → n < (r + 2 ^ b) * (r + 2 ^ b) →
    isqrtFrom n b r * isqrtFrom n b r ≤ n ∧ n < (isqrtFrom n b r + 1) * (isqrtFrom n b r + 1)
  | 0, r, hlo, hhi => ⟨hlo, hhi⟩
  | b + 1, r, hlo, hhi => by
    have hhi' : n < (r + 2 ^ b + 2 ^ b) * (r + 2 ^ b + 2 ^ b) := by
      rwa [pow_succ, Nat.mul_two, ← Nat.add_assoc] at hhi
    rw [isqrtFrom]
    split
    · next h => exact isqrtFrom_spec n b _ h hhi'
    · next h => exact isqrtFrom_spec n b r hlo (not_le.mp h)

theorem isqrt_spec (n : Nat) : isqrt n * isqrt n ≤ n ∧ n < (isqrt n + 1) * (isqrt n + 1) := by
  refine isqrtFrom_spec n _ 0 (Nat.zero_le n) ?_
  rw [Nat.zero_add, ← pow_add]
  exact Nat.lt_log2_self.trans_le (Nat.pow_le_pow_right (by norm_num) (by omega))

theorem FFmt.sqrtVal_pos (hm : m ≠ 0) : t.sqrtVal rm (.fin false m e) = t.sqrtFin rm m e :=
  (if_neg hm).trans (if_neg Bool.false_ne_true)

theorem FFmt.sqrtVal_zero : t.sqrtVal rm (.fin neg 0 e) = (t.sign neg 0, 0) := by
  rw [FFmt.sqrtVal, if_pos rfl]

theorem FFmt.sqrtFin_rounds (hg : t.Good) (rm : Rm) (hm : m ≠ 0) (e : Int) :
    t.Rounds rm (√((ratOf false m e : ℚ) : ℝ)) (t.sqrtFin rm m e) := by
  rw [FFmt.sqrtFin]
  obtain ⟨M, g, hM, hE, hM0, hval⟩ : ∃ (M : Nat) (g : Int), (if e % 2 = 0 then m else 2 * m) = M ∧
      (if e % 2 = 0 then e else e - 1) / 2 = g ∧ M ≠ 0 ∧ ratOf false m e = M * (2 ^ g) ^ 2 := by
    rw [ratOf_false]
    split
    · next h => exact ⟨m, e / 2, rfl, rfl, hm, by rw [← zpow_natCast, ← zpow_mul]; congr 2; omega⟩
    · next h =>
      refine ⟨2 * m, (e - 1) / 2, rfl, rfl, by omega, ?_⟩
      obtain ⟨d, rfl⟩ : ∃ d, e = d * 2 + 1 := ⟨e / 2, by omega⟩
      rw [add_sub_cancel_right, Int.mul_ediv_cancel _ (by norm_num), zpow_add_one₀ (by norm_num), zpow_mul, zpow_ofNat]
      push_cast
      ring
  rw [hM, hE]
  generalize hk : t.fracBits + 3 = k
  generalize hn : M * 2 ^ (2 * k) = n
  obtain ⟨hlo, hhi⟩ := isqrt_spec n
  have hroot : √((ratOf false m e : ℚ) : ℝ) = √(n : ℝ) * 2 ^ (g - k - 1 + 1) := by
    have hpow : (2 : ℝ) ^ (2 * k) = (2 ^ k) ^ 2 := by rw [mul_comm, pow_mul]
    rw [hval, ← hn, sub_add_cancel, zpow_sub₀ (by norm_num), zpow_natCast]
    push_cast
    rw [hpow, Real.sqrt_mul (by positivity), Real.sqrt_mul (by positivity), Real.sqrt_sq (by positivity), Real.sqrt_sq (by positivity)]
    field_simp
  refine FFmt.round_halfUnit (w := √(n : ℝ)) hg rm ?_ ?_ ?_ ?_ ?_ ?_
  · exact iff_of_false Bool.false_ne_true (Real.sqrt_nonneg _).not_gt
  · rw [abs_of_nonneg (Real.sqrt_nonneg _), hroot]
  · exact Real.le_sqrt_of_sq_le (by rw [sq]; exact_mod_cast hlo)
  · rw [Real.sqrt_lt' (by positivity), sq]
    exact_mod_cast hhi
  · have heq : √(n : ℝ) = isqrt n ↔ isqrt n * isqrt n = n := by
      rw [Real.sqrt_eq_iff_mul_self_eq (by positivity) (by positivity)]
      norm_cast
      exact eq_comm
    by_cases h0 : isqrt n * isqrt n = n
    · exact .inl ⟨if_pos h0, heq.mpr h0⟩
    · exact .inr ⟨if_neg h0, heq.not.mpr h0⟩
  · by_contra hsmall
    have hroot' : isqrt n + 1 ≤ 2 ^ (t.fracBits + 1) := by omega
    have hsq := Nat.mul_le_mul hroot' hroot'
    have hpow : 2 ^ (t.fracBits + 1) * 2 ^ (t.fracBits + 1) ≤ 2 ^ (2 * k) := by
      rw [← pow_add]
      exact Nat.pow_le_pow_right (by norm_num) (by omega)
    have hbig : 2 ^ (2 * k) ≤ n := hn ▸ Nat.le_mul_of_pos_left _ (Nat.pos_of_ne_zero hM0)
    omega

end

end Sys2Proof.Machine

namespace Sys2Proof.Proofs
open Sys2Proof.Machine

/-- Settles O43: sums and products by their exact values, quotients and roots by enough bits and one that tells whether they
go on. -/
theorem exactThenRounded : Obligations.ExactThenRounded := by
  intro f hf rm a b c m x y z neg e hm hx hy hz
  have hg := good_of_mem hf
  obtain ⟨m1, e1, ha, rfl⟩ := FFmt.unpack_of_value hx
  obtain ⟨m2, e2, hb, rfl⟩ := FFmt.unpack_of_value hy
  obtain ⟨m3, e3, hc, rfl⟩ := FFmt.unpack_of_value hz
  dsimp only
  have hm2 := FFmt.significand_lt hb
  simp only [FFmt.add, FFmt.sub, FFmt.mul, FFmt.div, FFmt.sqrt, FFmt.fmadd, FFmt.fmsub, FFmt.fnmsub, FFmt.fnmadd, ha, hb, hc,
    FVal.negate]
  generalize f.isNeg a = n1 at *
  generalize f.isNeg b = n2 at *
  generalize f.isNeg c = n3 at *
  have hadd := f.addFin_sumIs rm n1 n2 m1 m2 e1 e2
  have hsub := f.addFin_sumIs rm n1 (!n2) m1 m2 e1 e2
  have hmul := f.round_mul rm n1 n2 m1 m2 e1 e2
  have hmadd := f.fmaVal_sumIs rm n1 n2 n3 m1 m2 m3 e1 e2 e3
  have hmsub := f.fmaVal_sumIs rm n1 n2 (!n3) m1 m2 m3 e1 e2 e3
  have hnmsub := f.fmaVal_sumIs rm (!n1) n2 n3 m1 m2 m3 e1 e2 e3
  have hnmadd := f.fmaVal_sumIs rm (!n1) n2 (!n3) m1 m2 m3 e1 e2 e3
  rw [ratOf_not, ← sub_eq_add_neg] at hsub hmsub
  rw [ratOf_not, neg_mul, Bool.not_xor] at hnmsub
  rw [ratOf_not, ratOf_not, neg_mul, ← sub_eq_add_neg, Bool.not_xor] at hnmadd
  refine ⟨hadd.1 neg m e hm, hsub.1 neg m e hm, hmul.1 neg m e hm, hmadd.1 neg m e hm, hmsub.1 neg m e hm, hnmsub.1 neg m e hm,
    hnmadd.1 neg m e hm, fun h1 h2 => ?_, fun hpos => ?_,
    hadd.2, hsub.2, hmul.2, fun h1 h2 => ?_, fun h1 => ?_, hmadd.2, hmsub.2, hnmsub.2, hnmadd.2⟩
  · rw [ne_eq, ratOf_eq_zero_iff] at h1 h2
    rw [FFmt.divVal_fin h2]
    exact FFmt.divFin_rounds hg rm n1 n2 e1 e2 h1 h2 hm2
  · have h1 : m1 ≠ 0 := ratOf_eq_zero_iff.not.mp hpos.ne'
    obtain rfl := (ratOf_pos_iff h1 n1 e1).mp hpos
    rw [FFmt.sqrtVal_pos h1]
    exact FFmt.sqrtFin_rounds hg rm h1 e1
  · obtain rfl := ratOf_eq_zero_iff.mp h1
    rw [FFmt.divVal_fin (ratOf_eq_zero_iff.not.mp h2), FFmt.divFin_zero]
  · obtain rfl := ratOf_eq_zero_iff.mp h1
    exact FFmt.sqrtVal_zero

end Sys2Proof.Proofs
end
